-- ==== Sys2Proof/Word.lean ====
section
/-!
DEFINITION. The widths of the block (spec/00_scope.md R5): bytes, words, and the nibble and
12-bit fields of an instruction word. All quantities are unsigned (R7).
-/

namespace Sys2Proof

/-- An 8-bit register or memory byte (`REG_W`, R5). -/
abbrev Byte := BitVec 8

/-- A 16-bit word: PC, I, a stack slot, an instruction (`PC_W`, `I_W`, `INSTR_W`, R5). -/
abbrev Word := BitVec 16

/-- A 4-bit field of an instruction word: `x`, `y` or `n` (R72). -/
abbrev Nibble := BitVec 4

/-- The 12-bit address immediate `nnn` (R72). -/
abbrev Addr := BitVec 12

/-- The memory has 4096 bytes, addresses 0..4095 (`MEM_SIZE`, R5). -/
abbrev memSize : Nat := 4096

/-- Programs are loaded at, and run from, 0x200 (`PROG_BASE`, R5). -/
abbrev progBase : Nat := 0x200

/-- The longest program, 4096 - 0x200 bytes (`PROG_MAX`, R5). -/
abbrev progMax : Nat := 3584

end Sys2Proof
end

