-- ==== Sys2Proof/Syntax.lean ====
section
/-!
DEFINITION. The instructions: one constructor of `Instr` per row of spec/opcode_table.json (R75,
R83), and `Kind`, the row's name without operands. A constructor also keeps the bits its row
ignores, so that the word it was decoded from can be written out again (FAULT_OP, R30; log, R181).
-/

namespace Sys2Proof

/-- An instruction with its fields (30_encoding.md R72, R73, R75). -/
inductive Instr where
  /-- `0??0`; `mid` is the ignored `op[11:4]`. -/
  | cls (mid : Byte)
  /-- `0??E`; `mid` is the ignored `op[11:4]`. -/
  | ret (mid : Byte)
  | jp (nnn : Addr)
  | call (nnn : Addr)
  | seImm (x : Nibble) (kk : Byte)
  | sneImm (x : Nibble) (kk : Byte)
  /-- `5xy?`; `low` is the ignored `op[3:0]`. -/
  | seReg (x y low : Nibble)
  | ldImm (x : Nibble) (kk : Byte)
  | addImm (x : Nibble) (kk : Byte)
  | ldReg (x y : Nibble)
  | or (x y : Nibble)
  | and (x y : Nibble)
  | xor (x y : Nibble)
  | addReg (x y : Nibble)
  | sub (x y : Nibble)
  /-- `8xy6`; `y` is decoded and not used (R108). -/
  | shr (x y : Nibble)
  | subn (x y : Nibble)
  /-- `8xyE`; `y` is decoded and not used (R110). -/
  | shl (x y : Nibble)
  /-- `9xy?`; `low` is the ignored `op[3:0]`. -/
  | sneReg (x y low : Nibble)
  | ldI (nnn : Addr)
  | jpV0 (nnn : Addr)
  | rnd (x : Nibble) (kk : Byte)
  | drw (x y n : Nibble)
  | skp (x : Nibble)
  | sknp (x : Nibble)
  | ldVxDt (x : Nibble)
  | ldVxK (x : Nibble)
  | ldDtVx (x : Nibble)
  | ldStVx (x : Nibble)
  | addI (x : Nibble)
  | ldF (x : Nibble)
  | ldB (x : Nibble)
  | ldMemVx (x : Nibble)
  | ldVxMem (x : Nibble)
  /-- the fallback: `op` is the unmatched word, whose bits have no meaning (R180). -/
  | nop (op : Word)
deriving DecidableEq, Repr

/-- The 34 instruction kinds and the fallback (R74, R83). -/
inductive Kind where
  | cls | ret | jp | call | seImm | sneImm | seReg | ldImm | addImm
  | ldReg | or | and | xor | addReg | sub | shr | subn | shl
  | sneReg | ldI | jpV0 | rnd | drw | skp | sknp
  | ldVxDt | ldVxK | ldDtVx | ldStVx | addI | ldF | ldB | ldMemVx | ldVxMem
  | nop
deriving DecidableEq, Repr

/-- The kind of an instruction. -/
def Instr.kind : Instr → Kind
  | .cls _ => .cls
  | .ret _ => .ret
  | .jp _ => .jp
  | .call _ => .call
  | .seImm _ _ => .seImm
  | .sneImm _ _ => .sneImm
  | .seReg _ _ _ => .seReg
  | .ldImm _ _ => .ldImm
  | .addImm _ _ => .addImm
  | .ldReg _ _ => .ldReg
  | .or _ _ => .or
  | .and _ _ => .and
  | .xor _ _ => .xor
  | .addReg _ _ => .addReg
  | .sub _ _ => .sub
  | .shr _ _ => .shr
  | .subn _ _ => .subn
  | .shl _ _ => .shl
  | .sneReg _ _ _ => .sneReg
  | .ldI _ => .ldI
  | .jpV0 _ => .jpV0
  | .rnd _ _ => .rnd
  | .drw _ _ _ => .drw
  | .skp _ => .skp
  | .sknp _ => .sknp
  | .ldVxDt _ => .ldVxDt
  | .ldVxK _ => .ldVxK
  | .ldDtVx _ => .ldDtVx
  | .ldStVx _ => .ldStVx
  | .addI _ => .addI
  | .ldF _ => .ldF
  | .ldB _ => .ldB
  | .ldMemVx _ => .ldMemVx
  | .ldVxMem _ => .ldVxMem
  | .nop _ => .nop

end Sys2Proof
end

