-- ==== Sys2Proof/WellFormed.lean ====
section
/-!
DEFINITION. Which terms of `Instr` stand for a word. Every field has exactly the width of its bits,
so the one thing to check is that a NOP carries a word that no other row matches (R84).
-/

namespace Sys2Proof

/-- The fallback space of 30_encoding.md R84, family by family. -/
def inFallbackSpace (op : Word) : Bool :=
  let fam := op.extractLsb' 12 4
  let low := op.extractLsb' 0 4
  let kk  := op.extractLsb' 0 8
  if fam = 0x0 then low ≠ 0x0 && low ≠ 0xE
  else if fam = 0x8 then
    low = 0x8 || low = 0x9 || low = 0xA || low = 0xB || low = 0xC || low = 0xD || low = 0xF
  else if fam = 0xE then kk ≠ 0x9E && kk ≠ 0xA1
  else if fam = 0xF then
    kk ≠ 0x07 && kk ≠ 0x0A && kk ≠ 0x15 && kk ≠ 0x18 && kk ≠ 0x1E && kk ≠ 0x29 && kk ≠ 0x33
      && kk ≠ 0x55 && kk ≠ 0x65
  else false

/-- An instruction is well formed when some word decodes to it. -/
def Instr.wellFormed : Instr → Bool
  | .nop op => inFallbackSpace op
  | .cls _ | .ret _ | .jp _ | .call _ | .seImm _ _ | .sneImm _ _ | .seReg _ _ _ | .ldImm _ _
  | .addImm _ _ | .ldReg _ _ | .or _ _ | .and _ _ | .xor _ _ | .addReg _ _ | .sub _ _ | .shr _ _
  | .subn _ _ | .shl _ _ | .sneReg _ _ _ | .ldI _ | .jpV0 _ | .rnd _ _ | .drw _ _ _ | .skp _
  | .sknp _ | .ldVxDt _ | .ldVxK _ | .ldDtVx _ | .ldStVx _ | .addI _ | .ldF _ | .ldB _
  | .ldMemVx _ | .ldVxMem _ => true

end Sys2Proof
end

