-- ==== Sys2Proof/Decode.lean ====
section
/-!
DEFINITION. Decode and encode (30_encoding.md R71 to R86). `decode` is the two-level dispatch of
R74; `opcodeTable` is the map of R75 as masks; `encode` writes the word of an instruction.
-/

namespace Sys2Proof

/-! ## Fields of the instruction word (R72) -/

/-- `op[15:12]`, the family. -/
def famOf (op : Word) : Nibble := op.extractLsb' 12 4
/-- `op[11:8]`, the index of Vx. -/
def xOf (op : Word) : Nibble := op.extractLsb' 8 4
/-- `op[7:4]`, the index of Vy. -/
def yOf (op : Word) : Nibble := op.extractLsb' 4 4
/-- `op[3:0]`, the low nibble. -/
def nOf (op : Word) : Nibble := op.extractLsb' 0 4
/-- `op[7:0]`, the low byte. -/
def kkOf (op : Word) : Byte := op.extractLsb' 0 8
/-- `op[11:0]`, the address immediate. -/
def nnnOf (op : Word) : Addr := op.extractLsb' 0 12
/-- `op[11:4]`, ignored in family 0x0 (R76). -/
def midOf (op : Word) : Byte := op.extractLsb' 4 8

/-! ## Decode (R74 to R80) -/

/-- Family 0x0, decided by the low nibble alone (R76). -/
def decodeFamily0 (op : Word) : Instr :=
  if nOf op = 0x0 then .cls (midOf op)
  else if nOf op = 0xE then .ret (midOf op)
  else .nop op

/-- Family 0x8, decided by the low nibble (R77). -/
def decodeFamily8 (op : Word) : Instr :=
  if nOf op = 0x0 then .ldReg (xOf op) (yOf op)
  else if nOf op = 0x1 then .or (xOf op) (yOf op)
  else if nOf op = 0x2 then .and (xOf op) (yOf op)
  else if nOf op = 0x3 then .xor (xOf op) (yOf op)
  else if nOf op = 0x4 then .addReg (xOf op) (yOf op)
  else if nOf op = 0x5 then .sub (xOf op) (yOf op)
  else if nOf op = 0x6 then .shr (xOf op) (yOf op)
  else if nOf op = 0x7 then .subn (xOf op) (yOf op)
  else if nOf op = 0xE then .shl (xOf op) (yOf op)
  else .nop op

/-- Family 0xE, decided by the low byte (R78). -/
def decodeFamilyE (op : Word) : Instr :=
  if kkOf op = 0x9E then .skp (xOf op)
  else if kkOf op = 0xA1 then .sknp (xOf op)
  else .nop op

/-- Family 0xF, decided by the low byte (R79). -/
def decodeFamilyF (op : Word) : Instr :=
  if kkOf op = 0x07 then .ldVxDt (xOf op)
  else if kkOf op = 0x0A then .ldVxK (xOf op)
  else if kkOf op = 0x15 then .ldDtVx (xOf op)
  else if kkOf op = 0x18 then .ldStVx (xOf op)
  else if kkOf op = 0x1E then .addI (xOf op)
  else if kkOf op = 0x29 then .ldF (xOf op)
  else if kkOf op = 0x33 then .ldB (xOf op)
  else if kkOf op = 0x55 then .ldMemVx (xOf op)
  else if kkOf op = 0x65 then .ldVxMem (xOf op)
  else .nop op

/-- Total decode of a word; no word is illegal (R74, R82). -/
def decode (op : Word) : Instr :=
  if famOf op = 0x0 then decodeFamily0 op
  else if famOf op = 0x1 then .jp (nnnOf op)
  else if famOf op = 0x2 then .call (nnnOf op)
  else if famOf op = 0x3 then .seImm (xOf op) (kkOf op)
  else if famOf op = 0x4 then .sneImm (xOf op) (kkOf op)
  else if famOf op = 0x5 then .seReg (xOf op) (yOf op) (nOf op)
  else if famOf op = 0x6 then .ldImm (xOf op) (kkOf op)
  else if famOf op = 0x7 then .addImm (xOf op) (kkOf op)
  else if famOf op = 0x8 then decodeFamily8 op
  else if famOf op = 0x9 then .sneReg (xOf op) (yOf op) (nOf op)
  else if famOf op = 0xA then .ldI (nnnOf op)
  else if famOf op = 0xB then .jpV0 (nnnOf op)
  else if famOf op = 0xC then .rnd (xOf op) (kkOf op)
  else if famOf op = 0xD then .drw (xOf op) (yOf op) (nOf op)
  else if famOf op = 0xE then decodeFamilyE op
  else decodeFamilyF op

/-- The word of two bytes, the one at the lower address high (R51, R71). -/
def wordOf (hi lo : Byte) : Word := hi ++ lo

/-- Why a byte sequence holds no instruction. -/
inductive DecodeReject where
  /-- fewer than the two bytes every instruction has (R71). -/
  | truncated
deriving DecidableEq, Repr

/-- Decode the first instruction of a byte sequence, and give the bytes after it. -/
def decodeBytes : List Byte → Except DecodeReject (Instr × List Byte)
  | hi :: lo :: rest => .ok (decode (wordOf hi lo), rest)
  | [_] => .error .truncated
  | [] => .error .truncated

/-- What the decoder reads from the low `nbits` bits of `w`, laid out as the hardware stores the
word: high byte first. Bits above `nbits` are 0; an instruction is 16 bits (R71). -/
def decodeTableWord (nbits w : Nat) : Option Instr :=
  let op : Word := BitVec.ofNat 16 (w % 2 ^ nbits)
  match decodeBytes [op.extractLsb' 8 8, op.extractLsb' 0 8] with
  | .ok (i, _) => some i
  | .error _ => none

/-! ## Encode (R73, R75) -/

/-- The word of an instruction; the inverse of `decode` on well-formed instructions. -/
def encode : Instr → Word
  | .cls mid => 0x0#4 ++ mid ++ 0x0#4
  | .ret mid => 0x0#4 ++ mid ++ 0xE#4
  | .jp nnn => 0x1#4 ++ nnn
  | .call nnn => 0x2#4 ++ nnn
  | .seImm x kk => 0x3#4 ++ x ++ kk
  | .sneImm x kk => 0x4#4 ++ x ++ kk
  | .seReg x y low => 0x5#4 ++ x ++ y ++ low
  | .ldImm x kk => 0x6#4 ++ x ++ kk
  | .addImm x kk => 0x7#4 ++ x ++ kk
  | .ldReg x y => 0x8#4 ++ x ++ y ++ 0x0#4
  | .or x y => 0x8#4 ++ x ++ y ++ 0x1#4
  | .and x y => 0x8#4 ++ x ++ y ++ 0x2#4
  | .xor x y => 0x8#4 ++ x ++ y ++ 0x3#4
  | .addReg x y => 0x8#4 ++ x ++ y ++ 0x4#4
  | .sub x y => 0x8#4 ++ x ++ y ++ 0x5#4
  | .shr x y => 0x8#4 ++ x ++ y ++ 0x6#4
  | .subn x y => 0x8#4 ++ x ++ y ++ 0x7#4
  | .shl x y => 0x8#4 ++ x ++ y ++ 0xE#4
  | .sneReg x y low => 0x9#4 ++ x ++ y ++ low
  | .ldI nnn => 0xA#4 ++ nnn
  | .jpV0 nnn => 0xB#4 ++ nnn
  | .rnd x kk => 0xC#4 ++ x ++ kk
  | .drw x y n => 0xD#4 ++ x ++ y ++ n
  | .skp x => 0xE#4 ++ x ++ 0x9E#8
  | .sknp x => 0xE#4 ++ x ++ 0xA1#8
  | .ldVxDt x => 0xF#4 ++ x ++ 0x07#8
  | .ldVxK x => 0xF#4 ++ x ++ 0x0A#8
  | .ldDtVx x => 0xF#4 ++ x ++ 0x15#8
  | .ldStVx x => 0xF#4 ++ x ++ 0x18#8
  | .addI x => 0xF#4 ++ x ++ 0x1E#8
  | .ldF x => 0xF#4 ++ x ++ 0x29#8
  | .ldB x => 0xF#4 ++ x ++ 0x33#8
  | .ldMemVx x => 0xF#4 ++ x ++ 0x55#8
  | .ldVxMem x => 0xF#4 ++ x ++ 0x65#8
  | .nop op => op

/-! ## The opcode map (R75) -/

/-- The 34 rows of R75: kind, match value, mask. A word is of a row's kind exactly when
`op &&& mask = match`. -/
def opcodeTable : List (Kind × Word × Word) :=
  [(.cls, 0x0000, 0xF00F), (.ret, 0x000E, 0xF00F), (.jp, 0x1000, 0xF000),
   (.call, 0x2000, 0xF000), (.seImm, 0x3000, 0xF000), (.sneImm, 0x4000, 0xF000),
   (.seReg, 0x5000, 0xF000), (.ldImm, 0x6000, 0xF000), (.addImm, 0x7000, 0xF000)] ++
  [(.ldReg, 0x8000, 0xF00F), (.or, 0x8001, 0xF00F), (.and, 0x8002, 0xF00F),
   (.xor, 0x8003, 0xF00F), (.addReg, 0x8004, 0xF00F), (.sub, 0x8005, 0xF00F),
   (.shr, 0x8006, 0xF00F), (.subn, 0x8007, 0xF00F), (.shl, 0x800E, 0xF00F)] ++
  [(.sneReg, 0x9000, 0xF000), (.ldI, 0xA000, 0xF000), (.jpV0, 0xB000, 0xF000),
   (.rnd, 0xC000, 0xF000), (.drw, 0xD000, 0xF000), (.skp, 0xE09E, 0xF0FF),
   (.sknp, 0xE0A1, 0xF0FF)] ++
  [(.ldVxDt, 0xF007, 0xF0FF), (.ldVxK, 0xF00A, 0xF0FF), (.ldDtVx, 0xF015, 0xF0FF),
   (.ldStVx, 0xF018, 0xF0FF), (.addI, 0xF01E, 0xF0FF), (.ldF, 0xF029, 0xF0FF),
   (.ldB, 0xF033, 0xF0FF), (.ldMemVx, 0xF055, 0xF0FF), (.ldVxMem, 0xF065, 0xF0FF)]

/-- The top nibbles a kind's words can have: one for a matched kind (R75), the four families with
unmatched words for NOP (R84). -/
def Kind.families : Kind → List Nibble
  | .cls | .ret => [0x0]
  | .jp => [0x1]
  | .call => [0x2]
  | .seImm => [0x3]
  | .sneImm => [0x4]
  | .seReg => [0x5]
  | .ldImm => [0x6]
  | .addImm => [0x7]
  | .ldReg | .or | .and | .xor | .addReg | .sub | .shr | .subn | .shl => [0x8]
  | .sneReg => [0x9]
  | .ldI => [0xA]
  | .jpV0 => [0xB]
  | .rnd => [0xC]
  | .drw => [0xD]
  | .skp | .sknp => [0xE]
  | .ldVxDt | .ldVxK | .ldDtVx | .ldStVx | .addI | .ldF | .ldB | .ldMemVx | .ldVxMem => [0xF]
  | .nop => [0x0, 0x8, 0xE, 0xF]

end Sys2Proof
end

