-- ==== Sys2Proof/Config.lean ====
section
/-!
DEFINITION. The open parameters of spec/00_scope.md R6. The first five are the fields of `Config`,
which State carries unchanged; the sixth, `rand`, is the opaque `Config.freeByte`.
-/

namespace Sys2Proof

/-- `WAITKEY_LAST` (R6, D22): the last key code LD_VX_K scans. -/
inductive WaitKeyLast where
  /-- 0xE, the reference's literal behaviour (default). -/
  | literal
  /-- 0xF, the flagged corrected variant. -/
  | corrected
deriving DecidableEq, Repr

/-- `VF_DEST_ORDER` (R6, R111, D16): the order of the two writes of a flag-writing ALU kind. -/
inductive VfDestOrder where
  /-- flag first, result second (default): with `x = 15`, VF ends as the result. -/
  | flagThenResult
  /-- result first, flag second: with `x = 15`, VF ends as the flag. -/
  | resultThenFlag
deriving DecidableEq, Repr

/-- `OOR_POLICY` (R6, R52, R53, D5, D6): an access at an address of 4096 or more. -/
inductive OorPolicy where
  /-- the address is reduced modulo 4096 (default). -/
  | wrap
  /-- the access has no meaning: the model faults. -/
  | fault
deriving DecidableEq, Repr

/-- The parameters of R6 that are fixed for one machine. `fontBase` ranges over 0..432, which is
R6's constraint `FONT_BASE + 80 <= 0x200`. -/
structure Config where
  fontBase    : Fin 433
  fontTable   : Vector Byte 80
  waitKeyLast : WaitKeyLast
  vfDestOrder : VfDestOrder
  oorPolicy   : OorPolicy
deriving DecidableEq, Repr

/-- The default `FONT_TABLE`, sixteen glyphs of five rows (10_state.md R34, D4). -/
def Config.defaultFont : Vector Byte 80 := #v[
  0xF0, 0x90, 0x90, 0x90, 0xF0,  0x20, 0x60, 0x20, 0x20, 0x70,
  0xF0, 0x10, 0xF0, 0x80, 0xF0,  0xF0, 0x10, 0xF0, 0x10, 0xF0,
  0x90, 0x90, 0xF0, 0x10, 0x10,  0xF0, 0x80, 0xF0, 0x10, 0xF0,
  0xF0, 0x80, 0xF0, 0x90, 0xF0,  0xF0, 0x10, 0x20, 0x40, 0x40,
  0xF0, 0x90, 0xF0, 0x90, 0xF0,  0xF0, 0x90, 0xF0, 0x10, 0xF0,
  0xF0, 0x90, 0xF0, 0x90, 0x90,  0xE0, 0x90, 0xE0, 0x90, 0xE0,
  0xF0, 0x80, 0x80, 0x80, 0xF0,  0xE0, 0x90, 0x90, 0x90, 0xE0,
  0xF0, 0x80, 0xF0, 0x80, 0xF0,  0xF0, 0x80, 0xF0, 0x80, 0x80]

/-- The defaults of R6: `FONT_BASE` 0x000, the font of R34, 0xE, `flag_then_result`, `wrap`. -/
def Config.default : Config where
  fontBase    := 0
  fontTable   := Config.defaultFont
  waitKeyLast := .literal
  vfDestOrder := .flagThenResult
  oorPolicy   := .wrap

/-- `rand` (R6, R112, D25): the `k`-th random draw. A free value: it has no body, so nothing is
known of it. Safe: a statement about RND holds whatever it is (log entry 2). -/
opaque Config.freeByte : Nat → Byte

end Sys2Proof
end

