-- ==== Sys2Proof/Machine/State.lean ====
section
/-!
DEFINITION. The state of the block (spec/10_state.md R20 to R36), its reset value
(70_reset_and_hazards.md R220), and the reasons a step or a host event can stop.
-/

namespace Sys2Proof.Machine

/-- The framebuffer: 32 rows of 64 one-bit pixels, `fb[y][x]`, `true` is on (R32). -/
abbrev FrameBuffer := Vector (Vector Bool 64) 32

/-- `STATUS` (R30, R190): no fatal condition, or which of the three was recorded. -/
inductive Status where
  /-- 0 `RUN`: `cpu_tick` executes instructions. -/
  | run
  /-- 1 `FATAL_STACK_OVERFLOW`: a CALL was executed at `SP = 16`. -/
  | stackOverflow
  /-- 2 `FATAL_STACK_UNDERFLOW`: a RET was executed at `SP = 0`. -/
  | stackUnderflow
  /-- 3 `FATAL_PROGRAM_TOO_LARGE`: `load_program` was given more than 3584 bytes. -/
  | programTooLarge
deriving DecidableEq, Repr

/-- The number `status_read` shows (R30). -/
def Status.code : Status → BitVec 2
  | .run => 0
  | .stackOverflow => 1
  | .stackUnderflow => 2
  | .programTooLarge => 3

/-- The state. The first fourteen fields are the spec's (10_state.md, summary table); the last
three are the model's own (log entries 1, 2, 3). -/
structure State where
  /-- `V[0]` to `V[15]` (R20); `v[15]` is VF, the one flag (R21). -/
  v        : Vector Byte 16
  /-- `PC`, all 16 bits kept (R23, R24). -/
  pc       : Word
  /-- `I`, the index register (R25). -/
  index    : Word
  /-- `STACK[0]` to `STACK[15]` (R26). -/
  stack    : Vector Word 16
  /-- `SP`, 0..16, the number of return addresses held (R27). -/
  sp       : Fin 17
  /-- `DT`, the delay timer (R28). -/
  dt       : Byte
  /-- `ST`, the sound timer (R29). -/
  st       : Byte
  /-- `STATUS` (R30). -/
  status   : Status
  /-- `FAULT_PC` (R30). -/
  faultPc  : Word
  /-- `FAULT_OP` (R30). -/
  faultOp  : Word
  /-- `MEM` (R31): the cells that differ from the reset contents, addresses rising. -/
  mem      : List Host.Cell
  /-- `FB` (R32). -/
  fb       : FrameBuffer
  /-- `DIRTY` (R33). -/
  dirty    : Bool
  /-- `KEY[0]` to `KEY[15]`, `true` is pressed (R35). -/
  keys     : Vector Bool 16
  /-- The model's own: the parameters of R6; no step or event changes them (log entry 1). -/
  cfg      : Config
  /-- The model's own: how many random draws were taken (R112; log entry 2). -/
  draws    : Nat
  /-- The model's own: the one `load_program` of R222 may still come (R204; log entry 3). -/
  bootOpen : Bool
deriving DecidableEq, Repr

/-- Why a step can stop with a fault. -/
inductive Fault where
  /-- An access at an address of 4096 or more under `OOR_POLICY = fault`, which gives it no meaning
  (R6, R52, R53). Raised by the fetch, DRW, LD_B, LD_MEM_VX and LD_VX_MEM. Safe: the model stops.
  It never occurs under the default `wrap`. -/
  | outOfRange
deriving DecidableEq, Repr

/-- Why a step or a host event can be refused. -/
inductive Refusal where
  /-- An instruction without a meaning; no arm of `exec` raises it now. Safe: the model stops. -/
  | notModelled (mnemonic : String)
  /-- `load_program` a second time or after the first `cpu_tick`: the spec gives it no meaning
  (R204, R223). Raised by `deliver`, never by `step`. Safe: the model has no move. -/
  | loadOutsideBoot
  /-- `key_down` or `key_up` of a code above 15: the spec gives it no meaning (R205, R223).
  Raised by `deliver`, never by `step`. Safe: the model has no move. -/
  | keyCodeOutOfRange
deriving DecidableEq, Repr

/-- The state right after `reset` of a machine with parameters `c` (R220). -/
def State.resetWith (c : Config) : State where
  v        := Vector.replicate 16 0x00
  pc       := 0x0200
  index    := 0x0000
  stack    := Vector.replicate 16 0x0000
  sp       := 0
  dt       := 0x00
  st       := 0x00
  status   := .run
  faultPc  := 0x0000
  faultOp  := 0x0000
  mem      := []
  fb       := Vector.replicate 32 (Vector.replicate 64 false)
  dirty    := false
  keys     := Vector.replicate 16 false
  cfg      := c
  draws    := 0
  bootOpen := true

/-- The state right after `reset` with the default parameters of R6. -/
def State.reset : State := State.resetWith Config.default

end Sys2Proof.Machine
end

