-- ==== Sys2Proof/Machine/Ops.lean ====
section
/-!
DEFINITION. The operations every instruction is written from: registers, memory
(20_memory.md R52 to R55), the return stack (R26), skips (R128), fatal entry and its only exit
(60_exceptions.md R194, R196).
-/

namespace Sys2Proof

/-- The content of address `a` right after reset: the font byte inside the font table, 0x00
elsewhere (10_state.md R31, R34; 20_memory.md R58). DESIGN CHOICE (log entry 4), safe: it is also
what an address that the memory list does not name reads as. -/
def Config.resetByte (c : Config) (a : Nat) : Byte :=
  if h : c.fontBase.val ≤ a ∧ a < c.fontBase.val + 80 then c.fontTable[a - c.fontBase.val]
  else 0

end Sys2Proof

namespace Sys2Proof.Machine

/-! ## Registers -/

/-- `V[i]` (R8, R20). -/
def State.reg (s : State) (i : Nibble) : Byte := s.v[i.toNat]'(i.isLt)

/-- `V[i] <- b` (R8, R20). -/
def State.setReg (s : State) (i : Nibble) (b : Byte) : State :=
  { s with v := s.v.set i.toNat b i.isLt }

/-- `PC <- w` (R8). -/
def State.setPc (s : State) (w : Word) : State := { s with pc := w }

/-- `I <- w` (R8, R25). -/
def State.setIndex (s : State) (w : Word) : State := { s with index := w }

/-- VF, the flag register, is `V[15]` (R21). -/
abbrev vf : Nibble := 15

/-! ## Memory as data -/

/-- The first cell listed for address `a`. -/
def Memory.find (a : Nat) : List Host.Cell → Option Byte
  | [] => none
  | (k, b) :: rest => if k = a then some b else Memory.find a rest

/-- List address `a` with byte `b`, in its place among rising addresses. -/
def Memory.insert (a : Nat) (b : Byte) : List Host.Cell → List Host.Cell
  | [] => [(a, b)]
  | (k, x) :: rest =>
    if a < k then (a, b) :: (k, x) :: rest
    else if k = a then (a, b) :: rest
    else (k, x) :: Memory.insert a b rest

/-- No longer list address `a`. -/
def Memory.erase (a : Nat) (m : List Host.Cell) : List Host.Cell := m.filter (fun cell => cell.1 ≠ a)

/-- The byte at address `a`: the listed one, else the reset contents (R31, R58). -/
def Memory.read (c : Config) (m : List Host.Cell) (a : Nat) : Byte :=
  (Memory.find a m).getD (c.resetByte a)

/-- Store `b` at address `a`; a byte equal to the reset contents is not listed. -/
def Memory.write (c : Config) (m : List Host.Cell) (a : Nat) (b : Byte) : List Host.Cell :=
  if b = c.resetByte a then Memory.erase a m else Memory.insert a b m

/-- The canonical form: addresses strictly rising and below 4096, no cell equal to the reset
contents of its address. -/
abbrev Memory.wf (c : Config) (m : List Host.Cell) : Prop :=
  m.Pairwise (fun p q => p.1 < q.1) ∧ ∀ cell ∈ m, cell.1 < memSize ∧ cell.2 ≠ c.resetByte cell.1

/-! ## Memory access (R52 to R55) -/

/-- `MemRead(addr, 1)` (R52). -/
def State.readByte (s : State) (addr : Nat) : Byte := Memory.read s.cfg s.mem (addr % memSize)

/-- `MemRead(addr, 2)`, high byte first (R51, R52). -/
def State.readWord (s : State) (addr : Nat) : Word := wordOf (s.readByte addr) (s.readByte (addr + 1))

/-- `MemWrite(addr, 1, b)` (R53). -/
def State.writeByte (s : State) (addr : Nat) (b : Byte) : State :=
  { s with mem := Memory.write s.cfg s.mem (addr % memSize) b }

/-- The `len` byte accesses from `addr` on have a meaning: always under `wrap`; under `fault` only
when none of them is at 4096 or above (R6, R52, R53). -/
def State.canAccess (s : State) (addr len : Nat) : Bool :=
  match s.cfg.oorPolicy with
  | .wrap => true
  | .fault => len = 0 || addr + len ≤ memSize

/-- Store bytes at `addr`, `addr + 1`, ... in ascending order. -/
def State.writeBytes (s : State) (addr : Nat) : List Byte → State
  | [] => s
  | b :: rest => (s.writeByte addr b).writeBytes (addr + 1) rest

/-- `MEM[addr + k] <- V[k]` for `k = 0 .. n-1`, ascending (R167). -/
def State.storeRegs (s : State) (addr : Nat) : Nat → State
  | 0 => s
  | n + 1 => (s.storeRegs addr n).writeByte (addr + n) (s.reg (BitVec.ofNat 4 n))

/-- `V[k] <- MEM[addr + k]` for `k = 0 .. n-1`, ascending (R168). -/
def State.loadRegs (s : State) (addr : Nat) : Nat → State
  | 0 => s
  | n + 1 => (s.loadRegs addr n).setReg (BitVec.ofNat 4 n) (s.readByte (addr + n))

/-! ## Return stack (R26, R27) -/

/-- Push: `STACK[SP] <- w; SP <- SP + 1`, with room for it (R121). -/
def State.push (s : State) (w : Word) (room : s.sp.val < 16) : State :=
  { s with stack := s.stack.set s.sp.val w room, sp := ⟨s.sp.val + 1, by omega⟩ }

/-- The slot a pop reads, `STACK[SP - 1]` (R123). -/
def State.top (s : State) (held : 0 < s.sp.val) : Word := s.stack[s.sp.val - 1]'(by omega)

/-- Pop: `SP <- SP - 1`; the slot keeps its value (R26, R123). -/
def State.pop (s : State) : State := { s with sp := ⟨s.sp.val - 1, by omega⟩ }

/-! ## Skips (R128) -/

/-- Add an extra 2 to PC when the condition holds (R128). -/
def State.skipIf (s : State) (c : Bool) : State := if c then s.setPc (s.pc + 2) else s

/-! ## Fatal conditions (R194, R196) -/

/-- `raise Fatal(code)` for the instruction word `op`: nothing of the instruction is written,
STATUS, FAULT_PC and FAULT_OP record it, PC keeps the post-fetch value `PC0 + 2` (R194). -/
def State.raiseFatal (s : State) (code : Status) (op : Word) : State :=
  { s with status := code, faultPc := s.pc - 2, faultOp := op }

/-- The `reset` event (R220, R221), the only way out of a fatal condition (R196). The parameters
are the machine's and stay; draws already taken do not come back (log entries 1, 2). -/
def State.hostReset (s : State) : State := { State.resetWith s.cfg with draws := s.draws }

/-! ## Fetch (R55, R70) -/

/-- The fetch of two bytes at PC has a meaning (R52, R55). -/
def State.canFetch (s : State) : Bool := s.canAccess s.pc.toNat 2

/-- The fetched word, `MemRead(PC, 2)` (R55, R70). -/
def State.fetchWord (s : State) : Word := s.readWord s.pc.toNat

/-- The state an instruction executes in: PC is already past it (R70), and no program can be loaded
any more (R222). -/
def State.afterFetch (s : State) : State := { s with pc := s.pc + 2, bootOpen := false }

/-- Store the word `op` where the next fetch reads it. -/
def State.placeWord (s : State) (op : Word) : State :=
  s.writeBytes s.pc.toNat [op.extractLsb' 8 8, op.extractLsb' 0 8]

end Sys2Proof.Machine
end

