-- ==== Sys2Proof/Machine/Flags.lean ====
section
/-!
DEFINITION. The flags written to VF and the results beside them (10_state.md R22; 40_alu.md R106 to
R111, R113). All arithmetic is on unsigned bytes.
-/

namespace Sys2Proof.Machine

/-- A flag is written as 0x00 or 0x01 (R21). -/
def flagByte (f : Bool) : Byte := if f then 0x01 else 0x00

/-- The sum exceeds 255 (R106). -/
def addFlag (a b : Byte) : Bool := 255 < a.toNat + b.toNat

/-- Strictly greater, measured before the subtraction `a - b` (R107, R109; 90_conflicts.md C8). -/
def subFlag (a b : Byte) : Bool := b.toNat < a.toNat

/-- Bit 0 before a right shift (R108). -/
def shrFlag (a : Byte) : Bool := a.getLsbD 0

/-- Bit 7 before a left shift (R110). -/
def shlFlag (a : Byte) : Bool := a.getLsbD 7

/-- The sum modulo 256 (R106, R113). -/
def addResult (a b : Byte) : Byte := BitVec.ofNat 8 ((a.toNat + b.toNat) % 256)

/-- `(a - b) mod 256` (R107, R113). -/
def subResult (a b : Byte) : Byte := BitVec.ofNat 8 ((256 + a.toNat - b.toNat) % 256)

/-- `a div 2` (R108, R113). -/
def shrResult (a : Byte) : Byte := BitVec.ofNat 8 (a.toNat / 2)

/-- `(2 * a) mod 256` (R110, R113). -/
def shlResult (a : Byte) : Byte := BitVec.ofNat 8 (2 * a.toNat % 256)

/-- Write the flag to VF and the result to `V[x]`, in the order of `VF_DEST_ORDER` (R111). -/
def State.writeFlagAndResult (s : State) (x : Nibble) (flag : Bool) (result : Byte) : State :=
  match s.cfg.vfDestOrder with
  | .flagThenResult => (s.setReg vf (flagByte flag)).setReg x result
  | .resultThenFlag => (s.setReg x result).setReg vf (flagByte flag)

end Sys2Proof.Machine
end

