-- ==== Sys2Proof/Machine/Operands.lean ====
section
/-!
DEFINITION. Operand forms: immediates widened with zeros (30_encoding.md R81), I-relative
addresses (20_memory.md R54), key index (43_keypad.md R150), sprite coordinates and bits
(42_display.md R141, R142), BCD digits and glyph address (44_timer_index_memory.md R165, R166).
-/

namespace Sys2Proof.Machine

/-- `zext_16(nnn)` (R7, R81). -/
def zextAddr (nnn : Addr) : Word := nnn.setWidth 16

/-- `zext_16` of a byte (R7, R81). -/
def zextByte (b : Byte) : Word := b.setWidth 16

/-- `I + k`, an unbounded sum (R54, R169). -/
def State.operandAddr (s : State) (k : Nat) : Nat := s.index.toNat + k

/-- The number of registers a bulk move with field `x` copies, `x + 1` (R167, R168). -/
def bulkCount (x : Nibble) : Nat := x.toNat + 1

/-- The key a register names, its low four bits (R150, D20). -/
def keyIndex (b : Byte) : Nibble := b.extractLsb' 0 4

/-- `KEY[k]` (R8, R35). -/
def State.key (s : State) (k : Nibble) : Bool := s.keys[k.toNat]'(k.isLt)

/-- The column of a sprite's left edge, `V[x] mod 64` (R142). -/
def originX (b : Byte) : Nat := b.toNat % 64

/-- The row of a sprite's top edge, `V[y] mod 32` (R142). -/
def originY (b : Byte) : Nat := b.toNat % 32

/-- Column `c` of a sprite row, 0 is the left one and bit 7 (R141). -/
def spriteBit (row : Byte) (c : Nat) : Bool := row.getLsbD (7 - c)

/-- How many of `n` sprite rows from `y0` on are on the screen; only their bytes are read (R142). -/
def visibleRows (y0 : Nat) (n : Nibble) : Nat := min n.toNat (32 - y0)

/-- The hundreds, tens and ones of a byte, in the order they are stored (R166). -/
def bcdDigits (a : Byte) : List Byte :=
  [BitVec.ofNat 8 (a.toNat / 100), BitVec.ofNat 8 (a.toNat / 10 % 10), BitVec.ofNat 8 (a.toNat % 10)]

/-- `(FONT_BASE + 5 * d) mod 2^16`, the whole byte as digit (R165, D19). -/
def glyphAddr (c : Config) (d : Byte) : Word := BitVec.ofNat 16 (c.fontBase.val + 5 * d.toNat)

/-- The last key code LD_VX_K scans (R153). -/
def lastScannedKey : WaitKeyLast → Nat
  | .literal => 0xE
  | .corrected => 0xF

end Sys2Proof.Machine
end

