-- ==== Sys2Proof/Machine/Alu.lean ====
section
/-!
DEFINITION. Register, arithmetic and logic instructions (spec/40_alu.md). Each meaning runs with PC
already past the instruction (R70) and reads its operands before it writes (R114).
-/

namespace Sys2Proof.Machine

/-- LD_IMM `6xkk` (R100). -/
def execLdImm (x : Nibble) (kk : Byte) (s : State) : Host.Outcome State Fault Refusal :=
  .next (s.setReg x kk)

/-- ADD_IMM `7xkk`: wraps, no flag (R101). -/
def execAddImm (x : Nibble) (kk : Byte) (s : State) : Host.Outcome State Fault Refusal :=
  .next (s.setReg x (addResult (s.reg x) kk))

/-- LD_REG `8xy0` (R102). -/
def execLdReg (x y : Nibble) (s : State) : Host.Outcome State Fault Refusal :=
  .next (s.setReg x (s.reg y))

/-- OR `8xy1`: VF is not reset (R103). -/
def execOr (x y : Nibble) (s : State) : Host.Outcome State Fault Refusal :=
  .next (s.setReg x (s.reg x ||| s.reg y))

/-- AND `8xy2` (R104). -/
def execAnd (x y : Nibble) (s : State) : Host.Outcome State Fault Refusal :=
  .next (s.setReg x (s.reg x &&& s.reg y))

/-- XOR `8xy3` (R105). -/
def execXor (x y : Nibble) (s : State) : Host.Outcome State Fault Refusal :=
  .next (s.setReg x (s.reg x ^^^ s.reg y))

/-- ADD_REG `8xy4` (R106). -/
def execAddReg (x y : Nibble) (s : State) : Host.Outcome State Fault Refusal :=
  .next (s.writeFlagAndResult x (addFlag (s.reg x) (s.reg y)) (addResult (s.reg x) (s.reg y)))

/-- SUB `8xy5`: `V[x] - V[y]` (R107). -/
def execSub (x y : Nibble) (s : State) : Host.Outcome State Fault Refusal :=
  .next (s.writeFlagAndResult x (subFlag (s.reg x) (s.reg y)) (subResult (s.reg x) (s.reg y)))

/-- SHR `8xy6`: `y` is not used (R108). -/
def execShr (x _y : Nibble) (s : State) : Host.Outcome State Fault Refusal :=
  .next (s.writeFlagAndResult x (shrFlag (s.reg x)) (shrResult (s.reg x)))

/-- SUBN `8xy7`: `V[y] - V[x]` (R109). -/
def execSubn (x y : Nibble) (s : State) : Host.Outcome State Fault Refusal :=
  .next (s.writeFlagAndResult x (subFlag (s.reg y) (s.reg x)) (subResult (s.reg y) (s.reg x)))

/-- SHL `8xyE`: `y` is not used (R110). -/
def execShl (x _y : Nibble) (s : State) : Host.Outcome State Fault Refusal :=
  .next (s.writeFlagAndResult x (shlFlag (s.reg x)) (shlResult (s.reg x)))

/-- RND `Cxkk`: a fresh free byte and the mask (R112; log entry 2). -/
def execRnd (x : Nibble) (kk : Byte) (s : State) : Host.Outcome State Fault Refusal :=
  .next { s.setReg x (Config.freeByte s.draws &&& kk) with draws := s.draws + 1 }

end Sys2Proof.Machine
end

