-- ==== Sys2Proof/Machine/Bulk.lean ====
section
/-!
DEFINITION. The three memory instructions (spec/44_timer_index_memory.md, section 3). None of them
changes I (R169).
-/

namespace Sys2Proof.Machine

/-- LD_B `Fx33`: hundreds, tens, ones (R166). -/
def execLdB (x : Nibble) (s : State) : Host.Outcome State Fault Refusal :=
  if s.canAccess (s.operandAddr 0) 3 then
    .next (s.writeBytes (s.operandAddr 0) (bcdDigits (s.reg x)))
  else .fault .outOfRange

/-- LD_MEM_VX `Fx55`: `V[0]` to `V[x]` to memory (R167). -/
def execLdMemVx (x : Nibble) (s : State) : Host.Outcome State Fault Refusal :=
  if s.canAccess (s.operandAddr 0) (bulkCount x) then
    .next (s.storeRegs (s.operandAddr 0) (bulkCount x))
  else .fault .outOfRange

/-- LD_VX_MEM `Fx65`: memory to `V[0]` to `V[x]` (R168). -/
def execLdVxMem (x : Nibble) (s : State) : Host.Outcome State Fault Refusal :=
  if s.canAccess (s.operandAddr 0) (bulkCount x) then
    .next (s.loadRegs (s.operandAddr 0) (bulkCount x))
  else .fault .outOfRange

end Sys2Proof.Machine
end

