-- ==== Sys2Proof/Machine/Control.lean ====
section
/-!
DEFINITION. Control transfer instructions (spec/41_control_flow.md). Each meaning runs with
`PC = PC0 + 2` (R70).
-/

namespace Sys2Proof.Machine

/-- JP `1nnn` (R120). -/
def execJp (nnn : Addr) (s : State) : Host.Outcome State Fault Refusal :=
  .next (s.setPc (zextAddr nnn))

/-- CALL `2nnn`: pushes the post-fetch PC; fatal at `SP = 16` (R121, R191). -/
def execCall (nnn : Addr) (s : State) : Host.Outcome State Fault Refusal :=
  if room : s.sp.val < 16 then .next ((s.push s.pc room).setPc (zextAddr nnn))
  else .next (s.raiseFatal .stackOverflow (encode (.call nnn)))

/-- JP_V0 `Bnnn`: a 16-bit sum, always with V0 (R122). -/
def execJpV0 (nnn : Addr) (s : State) : Host.Outcome State Fault Refusal :=
  .next (s.setPc (zextAddr nnn + zextByte (s.reg 0)))

/-- RET `0??E`; fatal at `SP = 0` (R123, R192). -/
def execRet (mid : Byte) (s : State) : Host.Outcome State Fault Refusal :=
  if held : 0 < s.sp.val then .next (s.pop.setPc (s.top held))
  else .next (s.raiseFatal .stackUnderflow (encode (.ret mid)))

/-- SE_IMM `3xkk` (R124, R128). -/
def execSeImm (x : Nibble) (kk : Byte) (s : State) : Host.Outcome State Fault Refusal :=
  .next (s.skipIf (s.reg x == kk))

/-- SNE_IMM `4xkk` (R125, R128). -/
def execSneImm (x : Nibble) (kk : Byte) (s : State) : Host.Outcome State Fault Refusal :=
  .next (s.skipIf (s.reg x != kk))

/-- SE_REG `5xy?`: the low nibble is ignored (R126, R128). -/
def execSeReg (x y _low : Nibble) (s : State) : Host.Outcome State Fault Refusal :=
  .next (s.skipIf (s.reg x == s.reg y))

/-- SNE_REG `9xy?`: the low nibble is ignored (R127, R128). -/
def execSneReg (x y _low : Nibble) (s : State) : Host.Outcome State Fault Refusal :=
  .next (s.skipIf (s.reg x != s.reg y))

end Sys2Proof.Machine
end

