-- ==== Sys2Proof/Machine/Display.lean ====
section
/-!
DEFINITION. Display instructions (spec/42_display.md) and the framebuffer operations under them.
-/

namespace Sys2Proof.Machine

/-- Every pixel off (R140). -/
def blankScreen : FrameBuffer := Vector.replicate 32 (Vector.replicate 64 false)

/-- `FB[py][px]`; off the screen there is no pixel, and nothing is on (R32, R65). -/
def pixelAt (fb : FrameBuffer) (px py : Nat) : Bool :=
  if h : px < 64 ∧ py < 32 then (fb[py]'h.2)[px]'h.1 else false

/-- `FB[py][px] <- FB[py][px] xor 1` (R142). -/
def togglePixel (fb : FrameBuffer) (px py : Nat) : FrameBuffer :=
  if h : px < 64 ∧ py < 32 then
    fb.set py ((fb[py]'h.2).set px (!((fb[py]'h.2)[px]'h.1)) h.1) h.2
  else fb

/-- Toggle one pixel and remember whether it went from on to off (R142, collision). -/
def drawPixel (px py : Nat) (acc : FrameBuffer × Bool) : FrameBuffer × Bool :=
  (togglePixel acc.1 px py, acc.2 || pixelAt acc.1 px py)

/-- Columns `0 .. n-1` of one sprite row, the row's byte given; columns past 63 are skipped (R142). -/
def drawColumns (row : Byte) (x0 py : Nat) : Nat → FrameBuffer × Bool → FrameBuffer × Bool
  | 0, acc => acc
  | c + 1, acc =>
    let done := drawColumns row x0 py c acc
    if x0 + c > 63 then done
    else if spriteBit row c then drawPixel (x0 + c) py done
    else done

/-- Rows `0 .. n-1` of the sprite at `I`; rows past 31 are skipped (R142). -/
def drawRows (s : State) (x0 y0 : Nat) : Nat → FrameBuffer × Bool → FrameBuffer × Bool
  | 0, acc => acc
  | r + 1, acc =>
    let done := drawRows s x0 y0 r acc
    if y0 + r > 31 then done
    else drawColumns (s.readByte (s.operandAddr r)) x0 (y0 + r) 8 done

/-- CLS `0??0`; DIRTY is set on every execution (R140, D24). -/
def execCls (_mid : Byte) (s : State) : Host.Outcome State Fault Refusal :=
  .next { s with fb := blankScreen, dirty := true }

/-- The state after a draw of `n` rows with its origin latched: the XORed framebuffer, the collision
flag in VF, DIRTY (R142). -/
def State.drawSprite (s : State) (x0 y0 n : Nat) : State :=
  let drawn := drawRows s x0 y0 n (s.fb, false)
  { s.setReg vf (flagByte drawn.2) with fb := drawn.1, dirty := true }

/-- DRW `Dxyn` (R141, R142, R143). -/
def execDrw (x y n : Nibble) (s : State) : Host.Outcome State Fault Refusal :=
  let x0 := originX (s.reg x)
  let y0 := originY (s.reg y)
  if s.canAccess (s.operandAddr 0) (visibleRows y0 n) then .next (s.drawSprite x0 y0 n.toNat)
  else .fault .outOfRange

end Sys2Proof.Machine
end

