-- ==== Sys2Proof/Machine/Keypad.lean ====
section
/-!
DEFINITION. Keypad instructions (spec/43_keypad.md). Each meaning runs with `PC = PC0 + 2` (R70).
-/

namespace Sys2Proof.Machine

/-- SKP `Ex9E` (R150, R151). -/
def execSkp (x : Nibble) (s : State) : Host.Outcome State Fault Refusal :=
  .next (s.skipIf (s.key (keyIndex (s.reg x))))

/-- SKNP `ExA1` (R150, R152). -/
def execSknp (x : Nibble) (s : State) : Host.Outcome State Fault Refusal :=
  .next (s.skipIf (!s.key (keyIndex (s.reg x))))

/-- The lowest pressed key code in `0 .. WAITKEY_LAST`, if there is one (R153, D22). -/
def State.firstPressed (s : State) : Option Nat :=
  (List.range (lastScannedKey s.cfg.waitKeyLast + 1)).find? (fun k => s.key (BitVec.ofNat 4 k))

/-- LD_VX_K `Fx0A`: the lowest pressed code, or back to PC0 to run again (R153, R154). -/
def execLdVxK (x : Nibble) (s : State) : Host.Outcome State Fault Refusal :=
  match s.firstPressed with
  | some k => .next (s.setReg x (BitVec.ofNat 8 k))
  | none => .next (s.setPc (s.pc - 2))

end Sys2Proof.Machine
end

