-- ==== Sys2Proof/Machine/Noop.lean ====
section
/-!
DEFINITION. The fallback no-op (spec/45_noop.md).
-/

namespace Sys2Proof.Machine

/-- NOP: no state change beyond the fetch's PC advance (R180). Its log event is an output of the
step, `tickLog` (R181). -/
def execNop (_op : Word) (s : State) : Host.Outcome State Fault Refusal := .next s

/-- The log event the next `cpu_tick` emits: the address and the word, when it executes an
unmatched word (R180, R181); none in the halted state (R195). -/
def tickLog (s : State) : Option (Word × Word) :=
  if s.status = .run ∧ s.canFetch = true ∧ (decode s.fetchWord).kind = .nop then
    some (s.pc, s.fetchWord)
  else none

end Sys2Proof.Machine
end

