-- ==== Sys2Proof/Machine/TimerIndex.lean ====
section
/-!
DEFINITION. Timer and index-register instructions (spec/44_timer_index_memory.md, sections 1 and 2).
-/

namespace Sys2Proof.Machine

/-- LD_VX_DT `Fx07` (R160). -/
def execLdVxDt (x : Nibble) (s : State) : Host.Outcome State Fault Refusal :=
  .next (s.setReg x s.dt)

/-- LD_DT_VX `Fx15` (R161). -/
def execLdDtVx (x : Nibble) (s : State) : Host.Outcome State Fault Refusal :=
  .next { s with dt := s.reg x }

/-- LD_ST_VX `Fx18` (R162). -/
def execLdStVx (x : Nibble) (s : State) : Host.Outcome State Fault Refusal :=
  .next { s with st := s.reg x }

/-- LD_I `Annn` (R163). -/
def execLdI (nnn : Addr) (s : State) : Host.Outcome State Fault Refusal :=
  .next (s.setIndex (zextAddr nnn))

/-- ADD_I `Fx1E`: modulo 2^16, no flag (R164). -/
def execAddI (x : Nibble) (s : State) : Host.Outcome State Fault Refusal :=
  .next (s.setIndex (s.index + zextByte (s.reg x)))

/-- LD_F `Fx29`: reads no memory (R165). -/
def execLdF (x : Nibble) (s : State) : Host.Outcome State Fault Refusal :=
  .next (s.setIndex (glyphAddr s.cfg (s.reg x)))

end Sys2Proof.Machine
end

