-- ==== Sys2Proof/Machine/Step.lean ====
section
/-!
DEFINITION. One `cpu_tick` (30_encoding.md R70; 60_exceptions.md R195).
-/

namespace Sys2Proof.Machine

/-- One `cpu_tick`: in the halted state nothing changes (R195); else fetch, advance PC, decode,
execute (R70). -/
def step (s : State) : Host.Outcome State Fault Refusal :=
  if s.status = .run then
    if s.canFetch then exec (decode s.fetchWord) s.afterFetch
    else .fault .outOfRange
  else .next s

/-- `s` with the instruction whose bits are the low `nbits` of `w` stored at PC, where the next fetch
reads it, and STATUS at RUN, without which no tick fetches (R195; log entry 5). -/
def State.withFetchWord (s : State) (nbits w : Nat) : State :=
  { s.placeWord (BitVec.ofNat 16 (w % 2 ^ nbits)) with status := .run }

end Sys2Proof.Machine
end

