-- ==== Sys2Proof/Machine/Events.lean ====
section
/-!
DEFINITION. The nine atomic events of the host interface (60_exceptions.md R203 to R207, R213, R200;
70_reset_and_hazards.md R220 to R223). `step` is the event `cpu_tick`; the others are not
instructions and come between ticks, in any order the host chooses.
-/

namespace Sys2Proof.Machine

/-- A host event (R203). Bytes of a load and key codes are the host's arguments. -/
inductive Event where
  | reset
  | loadProgram (bytes : List Byte)
  | cpuTick
  | timerTick
  | keyDown (code : Nat)
  | keyUp (code : Nat)
  | fbRead
  | consumeDirty
  | statusRead
deriving DecidableEq, Repr

/-- What an event returns to the host (R203, last column but one). -/
inductive Reply where
  /-- nothing. -/
  | none
  /-- the load was accepted (R204). -/
  | loadOk
  /-- the load was too long (R204). -/
  | loadError
  /-- the log event of a NOP: its address and word (R181). -/
  | unrecognized (pc0 op : Word)
  /-- the framebuffer (R206). -/
  | grid (fb : FrameBuffer)
  /-- the old DIRTY (R207). -/
  | dirty (d : Bool)
  /-- STATUS, FAULT_PC, FAULT_OP and ST (R213). -/
  | status (code : BitVec 2) (faultPc faultOp : Word) (st : Byte)
deriving DecidableEq, Repr

/-- One timer floored at zero (R200). -/
def countDown (t : Byte) : Byte := if t = 0 then 0 else t - 1

/-- `timer_tick` (R200), accepted in every state. -/
def State.timerTick (s : State) : State := { s with dt := countDown s.dt, st := countDown s.st }

/-- `KEY[k] <- down` (R205). -/
def State.setKey (s : State) (k : Fin 16) (down : Bool) : State :=
  { s with keys := s.keys.set k.val down k.isLt }

/-- `key_down(code)` and `key_up(code)`: no meaning above 15 (R205, R223). -/
def keyEvent (code : Nat) (down : Bool) (s : State) : Host.Outcome (State × Reply) Fault Refusal :=
  if h : code < 16 then .next (s.setKey ⟨code, h⟩ down, .none) else .refused .keyCodeOutOfRange

/-- `load_program(bytes)` where it has a meaning (R193, R204): too long records the fatal condition
and copies nothing, else the bytes go to 0x200 and up. Either way it was the one load (R222). -/
def State.loadProgram (s : State) (bytes : List Byte) : State × Reply :=
  if bytes.length > progMax then
    ({ s with status := .programTooLarge, faultPc := 0, faultOp := 0, bootOpen := false }, .loadError)
  else ({ s.writeBytes progBase bytes with bootOpen := false }, .loadOk)

/-- `load_program(bytes)`: legal once, after `reset` and before the first `cpu_tick`, and never in
the halted state (R195, R204, R222, R223). -/
def loadEvent (bytes : List Byte) (s : State) : Host.Outcome (State × Reply) Fault Refusal :=
  if s.bootOpen = true ∧ s.status = .run then .next (s.loadProgram bytes)
  else .refused .loadOutsideBoot

/-- What `cpu_tick` returns: the log event, when the tick executes an unmatched word (R181, R203). -/
def tickReply (s : State) : Reply :=
  match tickLog s with
  | some (pc0, op) => .unrecognized pc0 op
  | .none => .none

/-- `cpu_tick` as an event (R70, R203). -/
def tickEvent (s : State) : Host.Outcome (State × Reply) Fault Refusal :=
  match step s with
  | .next t => .next (t, tickReply s)
  | .fault f => .fault f
  | .refused r => .refused r

/-- `consume_dirty`: read and clear (R207). -/
def State.clearDirty (s : State) : State := { s with dirty := false }

/-- Deliver one event (R203). -/
def deliver (e : Event) (s : State) : Host.Outcome (State × Reply) Fault Refusal :=
  match e with
  | .reset => .next (s.hostReset, .none)
  | .loadProgram bytes => loadEvent bytes s
  | .cpuTick => tickEvent s
  | .timerTick => .next (s.timerTick, .none)
  | .keyDown code => keyEvent code true s
  | .keyUp code => keyEvent code false s
  | .fbRead => .next (s, .grid s.fb)
  | .consumeDirty => .next (s.clearDirty, .dirty s.dirty)
  | .statusRead => .next (s, .status s.status.code s.faultPc s.faultOp s.st)

/-- Deliver a sequence of events, oldest first; the first stop ends it (R203). -/
def deliverAll : List Event → State → Host.Outcome State Fault Refusal
  | [], s => .next s
  | e :: rest, s =>
    match deliver e s with
    | .next (t, _) => deliverAll rest t
    | .fault f => .fault f
    | .refused r => .refused r

end Sys2Proof.Machine
end

