-- ==== Sys2Proof/Safety.lean ====
section
/-!
DEFINITION. The terms claims are stated in: the fields of a word (30_encoding.md R72), which registers
an instruction names as its destination (10_state.md R22), faulted and normally ended states
(70_reset_and_hazards.md R226), the machine's invariant, where each kind leaves PC (R24), the two
writes of a flag-writing kind (40_alu.md R111), the closed form of a sprite (42_display.md R142).
-/

namespace Sys2Proof

/-! ## Fields (R72) -/

/-- The fields of `i` are the bits R72 gives them in the word `op`, as numbers. -/
def Instr.fieldsFrom (i : Instr) (op : Nat) : Prop :=
  match i with
  | .cls mid | .ret mid => mid.toNat = op / 16 % 256
  | .jp nnn | .call nnn | .ldI nnn | .jpV0 nnn => nnn.toNat = op % 4096
  | .seImm x kk | .sneImm x kk | .ldImm x kk | .addImm x kk | .rnd x kk =>
    x.toNat = op / 256 % 16 ∧ kk.toNat = op % 256
  | .seReg x y n | .sneReg x y n | .drw x y n =>
    x.toNat = op / 256 % 16 ∧ y.toNat = op / 16 % 16 ∧ n.toNat = op % 16
  | .ldReg x y | .or x y | .and x y | .xor x y | .addReg x y | .sub x y | .shr x y | .subn x y
  | .shl x y => x.toNat = op / 256 % 16 ∧ y.toNat = op / 16 % 16
  | .skp x | .sknp x | .ldVxDt x | .ldVxK x | .ldDtVx x | .ldStVx x | .addI x | .ldF x | .ldB x
  | .ldMemVx x | .ldVxMem x => x.toNat = op / 256 % 16
  | .nop w => w.toNat = op

/-! ## Registers an instruction names as its destination (R20, R22) -/

/-- `V[r]` is a destination of the instruction; VF written as a flag does not count (R22). -/
def Instr.names (i : Instr) (r : Nibble) : Prop :=
  match i with
  | .ldImm x _ | .addImm x _ | .ldReg x _ | .or x _ | .and x _ | .xor x _ | .addReg x _ | .sub x _
  | .shr x _ | .subn x _ | .shl x _ | .rnd x _ | .ldVxDt x | .ldVxK x => r = x
  | .ldVxMem x => r.toNat ≤ x.toNat
  | .cls _ | .ret _ | .jp _ | .call _ | .seImm _ _ | .sneImm _ _ | .seReg _ _ _ | .sneReg _ _ _
  | .ldI _ | .jpV0 _ | .drw _ _ _ | .skp _ | .sknp _ | .ldDtVx _ | .ldStVx _ | .addI _ | .ldF _
  | .ldB _ | .ldMemVx _ | .nop _ => False

/-- The six kinds that write VF as a side effect (R22). -/
def Kind.writesFlag (k : Kind) : Bool :=
  [Kind.addReg, .sub, .shr, .subn, .shl, .drw].contains k

end Sys2Proof

namespace Sys2Proof.Machine

/-! ## Ends of a run (R226) -/

/-- A faulted end: a fatal condition is recorded (R195, R226). -/
abbrev State.faulted (s : State) : Prop := s.status ≠ .run

/-- A normal end: PC holds the address of a jump to itself and STATUS is RUN (R226, D30). -/
abbrev State.atNormalEnd (s : State) : Prop :=
  s.status = .run ∧ s.canFetch = true ∧ decode s.fetchWord = .jp (nnnOf s.pc) ∧
    s.pc.toNat < memSize

/-! ## The invariant -/

/-- What STATUS, FAULT_PC and FAULT_OP say of each other (R30, R190, R194, R196). -/
abbrev State.faultRecord (s : State) : Prop :=
  (s.status = .run → s.faultPc = 0 ∧ s.faultOp = 0) ∧
  (s.status = .stackOverflow →
    s.sp = 16 ∧ (decode s.faultOp).kind = .call ∧ s.pc = s.faultPc + 2) ∧
  (s.status = .stackUnderflow →
    s.sp = 0 ∧ (decode s.faultOp).kind = .ret ∧ s.pc = s.faultPc + 2) ∧
  (s.status = .programTooLarge → s.faultPc = 0 ∧ s.faultOp = 0)

/-- While the one load may still come, the block is as reset left it, but for the keys (R204, R222). -/
abbrev State.bootRecord (s : State) : Prop :=
  s.bootOpen = true → s = { State.resetWith s.cfg with keys := s.keys, draws := s.draws }

/-- The invariant of every step and event: memory canonical, fault record consistent, boot. -/
abbrev State.Inv (s : State) : Prop := Memory.wf s.cfg s.mem ∧ s.faultRecord ∧ s.bootRecord

/-! ## PC (R24) -/

/-- The six skip kinds (R128). -/
def skipKinds : List Kind := [.seImm, .sneImm, .seReg, .sneReg, .skp, .sknp]

/-- CALLs to some targets, one executed right after the other (R191). -/
def callAll : List Addr → State → Host.Outcome State Fault Refusal
  | [], s => .next s
  | nnn :: rest, s =>
    match exec (.call nnn) s with
    | .next t => callAll rest t
    | .fault f => .fault f
    | .refused r => .refused r

/-- A skip's PC, from `PC0` (R24, R128). -/
def skipTarget (pc0 : Word) (cond : Prop) [Decidable cond] : Word := if cond then pc0 + 4 else pc0 + 2

/-- A key in LD_VX_K's scan range is pressed (R153). -/
abbrev State.keyInRange (s : State) : Prop :=
  ∃ k : Fin 16, k.val ≤ lastScannedKey s.cfg.waitKeyLast ∧ s.keys[k.val] = true

/-- PC after the instruction `i` that stands at `pc0`, by the table of R24; `s` is the state it
executes in. -/
def pcAfter (i : Instr) (pc0 : Word) (s : State) : Word :=
  match i with
  | .jp nnn => BitVec.ofNat 16 nnn.toNat
  | .call nnn => if s.sp = 16 then pc0 + 2 else BitVec.ofNat 16 nnn.toNat
  | .ret _ => if s.sp = 0 then pc0 + 2 else s.stack[s.sp.val - 1]'(by omega)
  | .jpV0 nnn => BitVec.ofNat 16 (nnn.toNat + (s.reg 0).toNat)
  | .seImm x kk => skipTarget pc0 (s.reg x = kk)
  | .sneImm x kk => skipTarget pc0 (s.reg x ≠ kk)
  | .seReg x y _ => skipTarget pc0 (s.reg x = s.reg y)
  | .sneReg x y _ => skipTarget pc0 (s.reg x ≠ s.reg y)
  | .skp x => skipTarget pc0 (s.keys[(s.reg x).toNat % 16] = true)
  | .sknp x => skipTarget pc0 (s.keys[(s.reg x).toNat % 16] = false)
  | .ldVxK _ => if s.keyInRange then pc0 + 2 else pc0
  | .cls _ | .ldImm _ _ | .addImm _ _ | .ldReg _ _ | .or _ _ | .and _ _ | .xor _ _ | .addReg _ _
  | .sub _ _ | .shr _ _ | .subn _ _ | .shl _ _ | .ldI _ | .rnd _ _ | .drw _ _ _ | .ldVxDt _
  | .ldDtVx _ | .ldStVx _ | .addI _ | .ldF _ | .ldB _ | .ldMemVx _ | .ldVxMem _ | .nop _ => pc0 + 2

/-! ## Register frames (R20, R111) -/

/-- From `s` to `t` only registers changed, and of them only `V[x]` (R20). -/
abbrev onlyReg (x : Nibble) (s t : State) : Prop :=
  t = { s with v := t.v } ∧ ∀ r, r ≠ x → t.reg r = s.reg r

/-- From `s` to `t` a flag-writing kind wrote `flag` to VF and `result` to `V[x]`; with `x = 15` the
later of the two writes stays (R111). Numbers, not bytes. -/
abbrev wroteFlagAndResult (x : Nibble) (flag result : Nat) (s t : State) : Prop :=
  t = { s with v := t.v } ∧
  (x ≠ 15 → (t.reg x).toNat = result ∧ (t.reg 15).toNat = flag) ∧
  (x = 15 → s.cfg.vfDestOrder = .flagThenResult → (t.reg 15).toNat = result) ∧
  (x = 15 → s.cfg.vfDestOrder = .resultThenFlag → (t.reg 15).toNat = flag) ∧
  ∀ r, r ≠ x → r ≠ 15 → t.reg r = s.reg r

/-! ## Accesses with a meaning (R6, R52, R53) -/

/-- The `len` bytes from `I` on may be accessed: under `OOR_POLICY = fault` all lie below 4096. -/
abbrev State.operandInRange (s : State) (len : Nat) : Prop :=
  s.cfg.oorPolicy = .fault → len = 0 ∨ s.index.toNat + len ≤ memSize

/-! ## Sprites (R141, R142) -/

/-- The sprite of `n` rows at `I`, drawn from column `x0` and row `y0`, has a 1 bit at the pixel
(`px`, `py`): row `py - y0`, bit `7 - (px - x0)` of its byte (R141, R142). -/
def State.spriteOn (s : State) (x0 y0 n px py : Nat) : Bool :=
  decide (x0 ≤ px ∧ px < x0 + 8 ∧ y0 ≤ py ∧ py < y0 + n) &&
    (s.readByte (s.index.toNat + (py - y0))).getLsbD (7 - (px - x0))

/-- Some pixel on the screen is on and has a 1 bit of the sprite: drawing turns it off (R142). -/
abbrev State.collides (s : State) (x0 y0 n : Nat) : Prop :=
  ∃ (px : Fin 64) (py : Fin 32),
    pixelAt s.fb px.val py.val = true ∧ s.spriteOn x0 y0 n px.val py.val = true

end Sys2Proof.Machine
end

