-- ==== Sys2Proof/Certificates/Slice0/Obligations.lean ====
section
/-!
DEFINITION. The statements for the provers. `exec` runs in the post-fetch state, so in a statement
about `exec i s` the instruction stands at `s.pc - 2` (R70; `PC0` of R8). A conclusion
`t = { s with f := t.f, ... }` says that every other piece of state, memory and every special
register among them, is unchanged.
-/

open Sys2Proof Sys2Proof.Machine

/-! ## Encoding and decode (spec/30_encoding.md) -/

/-- Every field survives: the word of a well-formed instruction decodes to it (R74, R75, R84).
Rests on the spec's decisions D12, D13 (92_eei_decisions.md). -/
def Obligations.DecodeInvertsEncode : Prop :=
  ∀ i : Instr, i.wellFormed = true → decode (encode i) = i

/-- Every word is the word of the well-formed instruction it decodes to (R74, R82).
Rests on the spec's decisions D12, D13 (92_eei_decisions.md). -/
def Obligations.EncodeInvertsDecode : Prop :=
  ∀ op : Word, (decode op).wellFormed = true ∧ encode (decode op) = op

/-- The dispatch agrees with the map of R75: a word is of the kind of the one row with
`op and mask = match`, rows never overlap, and a word no row matches is NOP (R74). -/
def Obligations.DecodeFollowsTheOpcodeMap : Prop :=
  (∀ op : Word, ∀ row ∈ opcodeTable, (decode op).kind = row.1 ↔ op &&& row.2.2 = row.2.1) ∧
  (∀ op : Word, ∀ row ∈ opcodeTable, ∀ other ∈ opcodeTable,
    op &&& row.2.2 = row.2.1 → op &&& other.2.2 = other.2.1 → row = other) ∧
  ∀ op : Word, (decode op).kind = .nop ↔ ∀ row ∈ opcodeTable, op &&& row.2.2 ≠ row.2.1

/-- The six fields of a word are the bits R72 names, as numbers; a decoded instruction is of a kind
its family holds (R75) and carries the fields its format names, and also, by the model's choice (log
entry 13), the bits its row ignores: `op[11:4]` of CLS and RET, `op[3:0]` of SE_REG and SNE_REG, the
`y` of SHR and SHL, the word of a NOP.
Rests on the spec's decisions D12, D13 (92_eei_decisions.md). -/
def Obligations.DecodeExtractsTheFields : Prop :=
  ∀ op : Word, (famOf op).toNat = op.toNat / 4096 ∧ (xOf op).toNat = op.toNat / 256 % 16 ∧
    (yOf op).toNat = op.toNat / 16 % 16 ∧ (nOf op).toNat = op.toNat % 16 ∧
    (kkOf op).toNat = op.toNat % 256 ∧ (nnnOf op).toNat = op.toNat % 4096 ∧
    (famOf op) ∈ (decode op).kind.families ∧ (decode op).fieldsFrom op.toNat

/-- A word is NOP exactly under the conditions of R84's table.
Rests on the spec's decisions D12, D13 (92_eei_decisions.md). -/
def Obligations.FallbackSpaceIsExact : Prop :=
  ∀ op : Word, (decode op).kind = .nop ↔
    (op.toNat / 4096 = 0x0 ∧ op.toNat % 16 ≠ 0x0 ∧ op.toNat % 16 ≠ 0xE) ∨
    (op.toNat / 4096 = 0x8 ∧ 0x8 ≤ op.toNat % 16 ∧ op.toNat % 16 ≠ 0xE) ∨
    (op.toNat / 4096 = 0xE ∧ op.toNat % 256 ∉ [0x9E, 0xA1]) ∨
    (op.toNat / 4096 = 0xF ∧
      op.toNat % 256 ∉ [0x07, 0x0A, 0x15, 0x18, 0x1E, 0x29, 0x33, 0x55, 0x65])

/-- Words written out from the rows of R75, one or more per family, decode to what they stand for
(95_test_vectors.md 2.1).
Rests on the spec's decisions D12, D13 (92_eei_decisions.md). -/
def Obligations.KnownWordsDecode : Prop :=
  decode 0x00E0 = .cls 0x0E ∧ decode 0x0ABE = .ret 0xAB ∧ decode 0x1234 = .jp 0x234 ∧
  decode 0x2FFF = .call 0xFFF ∧ decode 0x3A7F = .seImm 0xA 0x7F ∧
  decode 0x5123 = .seReg 1 2 3 ∧ decode 0x6A2F = .ldImm 0xA 0x2F ∧ decode 0x8127 = .subn 1 2 ∧
  decode 0x812E = .shl 1 2 ∧ decode 0xD125 = .drw 1 2 5 ∧ decode 0xE1A1 = .sknp 1 ∧
  decode 0xF155 = .ldMemVx 1 ∧ decode 0xF130 = .nop 0xF130

/-! ## The step (spec/30_encoding.md R70, spec/20_memory.md) -/

/-- In RUN, when the two bytes at PC are the word of `i`, a tick is `exec i` after PC was advanced
by 2; the model's boot bit closes (R70; R222). -/
def Obligations.StepRunsTheDecodedInstruction : Prop :=
  ∀ (s : State) (i : Instr) (hi lo : Byte),
    s.status = .run → (s.cfg.oorPolicy = .fault → s.pc.toNat + 2 ≤ memSize) →
    s.readByte s.pc.toNat = hi → s.readByte (s.pc.toNat + 1) = lo →
    decode (hi ++ lo) = i →
    step s = exec i { s with pc := s.pc + 2, bootOpen := false }

/-- The fetched word: high byte at PC modulo 4096, low byte at PC + 1 modulo 4096 (R51, R55).
Rests on the spec's decision D6 (92_eei_decisions.md). -/
def Obligations.FetchIsBigEndianModulo4096 : Prop :=
  ∀ s : State, s.fetchWord.toNat =
    (Memory.read s.cfg s.mem (s.pc.toNat % 4096)).toNat * 256 +
      (Memory.read s.cfg s.mem ((s.pc.toNat + 1) % 4096)).toNat

/-- A byte stored by LD_MEM_VX or LD_B where the next fetch reads is in the fetched word (R63).
Rests on the spec's decisions D5, D35 (92_eei_decisions.md). -/
def Obligations.StoreIsSeenByTheNextFetch : Prop :=
  (∀ (x : Nibble) (s t : State) (k : Nibble), exec (.ldMemVx x) s = .next t → k.toNat ≤ x.toNat →
    ((s.index.toNat + k.toNat) % 4096 = t.pc.toNat % 4096 →
      t.fetchWord.toNat / 256 = (s.reg k).toNat) ∧
    ((s.index.toNat + k.toNat) % 4096 = (t.pc.toNat + 1) % 4096 →
      t.fetchWord.toNat % 256 = (s.reg k).toNat)) ∧
  ∀ (x : Nibble) (s t : State) (k : Nat) (h : k < 3), exec (.ldB x) s = .next t →
    ((s.index.toNat + k) % 4096 = t.pc.toNat % 4096 → t.fetchWord.toNat / 256 =
      [(s.reg x).toNat / 100, (s.reg x).toNat / 10 % 10, (s.reg x).toNat % 10][k]) ∧
    ((s.index.toNat + k) % 4096 = (t.pc.toNat + 1) % 4096 → t.fetchWord.toNat % 256 =
      [(s.reg x).toNat / 100, (s.reg x).toNat / 10 % 10, (s.reg x).toNat % 10][k])

/-- With `OOR_POLICY = fault` a fetch, LD_B, LD_MEM_VX, LD_VX_MEM or DRW that would access an
address of 4096 or more has no meaning: the model faults, which is its choice of the two R52 allows
(R6, R52, R53; log entry 6). DRW reads only the rows that are on the screen.
Rests on the spec's decisions D5, D6 (92_eei_decisions.md). -/
def Obligations.OutOfRangeAccessFaults : Prop :=
  ∀ s : State, s.cfg.oorPolicy = .fault →
    (s.status = .run → 4096 < s.pc.toNat + 2 → step s = .fault .outOfRange) ∧
    (∀ x, 4096 < s.index.toNat + 3 → exec (.ldB x) s = .fault .outOfRange) ∧
    (∀ x : Nibble, 4096 < s.index.toNat + (x.toNat + 1) →
      exec (.ldMemVx x) s = .fault .outOfRange ∧ exec (.ldVxMem x) s = .fault .outOfRange) ∧
    ∀ x y n : Nibble, 0 < n.toNat →
      4096 < s.index.toNat + min n.toNat (32 - (s.reg y).toNat % 32) →
      exec (.drw x y n) s = .fault .outOfRange

/-- With the default `OOR_POLICY = wrap` every instruction completes in every state, and so does
every tick; no instruction is ever refused (R82, R190, R211).
Rests on the spec's decisions D5, D6, D9 (92_eei_decisions.md). -/
def Obligations.EveryInstructionCompletesUnderWrap : Prop :=
  (∀ s : State, s.cfg.oorPolicy = .wrap →
    (∀ i : Instr, ∃ t, exec i s = .next t) ∧ ∃ t, step s = .next t) ∧
  ∀ (i : Instr) (s : State) (r : Refusal), exec i s ≠ .refused r

/-! ## Rules over all instructions (spec/10_state.md) -/

/-- Each kind leaves PC as the table of R24 says, with `PC0 = s.pc - 2` (R24).
Rests on the spec's decisions D6, D10, D14, D20, D22, D32 (92_eei_decisions.md). -/
def Obligations.PcAfterEachKind : Prop :=
  ∀ (i : Instr) (s t : State), exec i s = .next t → t.pc = pcAfter i (s.pc - 2) s

/-- VF is written as a side effect by the six kinds of R22 only, and with the values of R22; where
the destination is VF itself, R111 decides.
Rests on the spec's decisions D15, D16 (92_eei_decisions.md). -/
def Obligations.VfChangesOnlyAsFlagOrDestination : Prop :=
  ∀ (i : Instr) (s t : State), exec i s = .next t →
    (i.kind.writesFlag = false → ¬ i.names 15 → t.reg 15 = s.reg 15) ∧
    (∀ x y, i = .addReg x y → x ≠ 15 →
      (t.reg 15).toNat = if (s.reg x).toNat + (s.reg y).toNat > 255 then 1 else 0) ∧
    (∀ x y, i = .sub x y → x ≠ 15 →
      (t.reg 15).toNat = if (s.reg x).toNat > (s.reg y).toNat then 1 else 0) ∧
    (∀ x y, i = .shr x y → x ≠ 15 → (t.reg 15).toNat = (s.reg x).toNat % 2) ∧
    (∀ x y, i = .subn x y → x ≠ 15 →
      (t.reg 15).toNat = if (s.reg y).toNat > (s.reg x).toNat then 1 else 0) ∧
    (∀ x y, i = .shl x y → x ≠ 15 → (t.reg 15).toNat = (s.reg x).toNat / 128) ∧
    ∀ x y n, i = .drw x y n → (t.reg 15).toNat =
      if s.collides ((s.reg x).toNat % 64) ((s.reg y).toNat % 32) n.toNat then 1 else 0

/-- No instruction changes a register it does not name as its destination, VF as a flag apart
(R20, R22).
Rests on the spec's decisions D14, D15 (92_eei_decisions.md). -/
def Obligations.RegistersChangeOnlyAsNamed : Prop :=
  ∀ (i : Instr) (s t : State) (r : Nibble), exec i s = .next t → ¬ i.names r →
    (r = 15 → i.kind.writesFlag = false) → t.reg r = s.reg r

/-- Each special register, the stack, memory, the framebuffer and the keys are written only by the
kinds the rules name (R25, R26, R28, R29, R30, R31, R32, R33, R35); DIRTY is never cleared by an
instruction; the model's own fields likewise.
Rests on the spec's decisions D18, D24, D31 (92_eei_decisions.md). -/
def Obligations.EachPieceOfStateHasItsWriters : Prop :=
  ∀ (i : Instr) (s t : State), exec i s = .next t →
    (i.kind ∉ [.ldI, .addI, .ldF] → t.index = s.index) ∧
    (i.kind ∉ [.call, .ret] → t.sp = s.sp ∧ t.status = s.status ∧
      t.faultPc = s.faultPc ∧ t.faultOp = s.faultOp) ∧
    (i.kind ≠ .call → t.stack = s.stack) ∧
    (i.kind ≠ .ldDtVx → t.dt = s.dt) ∧ (i.kind ≠ .ldStVx → t.st = s.st) ∧
    (i.kind ∉ [.ldB, .ldMemVx] → t.mem = s.mem ∧ ∀ a : Nat, t.readByte a = s.readByte a) ∧
    (i.kind ∉ [.cls, .drw] → t.fb = s.fb ∧ t.dirty = s.dirty) ∧
    (i.kind ∈ [.cls, .drw] → t.dirty = true) ∧
    t.keys = s.keys ∧ t.cfg = s.cfg ∧ t.bootOpen = s.bootOpen ∧
    (i.kind ≠ .rnd → t.draws = s.draws)

/-- ST, DIRTY, FAULT_PC and FAULT_OP are invisible to the program: two states that differ only in
them run alike and differ only in them afterwards (R29, R30, R33).
Rests on the spec's decisions D9, D24, D26 (92_eei_decisions.md). -/
def Obligations.HostOnlyStateNeverInfluences : Prop :=
  ∀ (i : Instr) (s t : State) (st : Byte) (d : Bool) (fp fo : Word), exec i s = .next t →
    ∃ u, exec i { s with st := st, dirty := d, faultPc := fp, faultOp := fo } = .next u ∧
      u = { t with st := u.st, dirty := u.dirty, faultPc := u.faultPc, faultOp := u.faultOp }

/-- The timers run beside the engine: an instruction that neither reads nor writes a timer and a
`timer_tick` give the same state in either order (R200, R202).
Rests on the spec's decision D2 (92_eei_decisions.md). -/
def Obligations.TimerTickCommutesWithInstructions : Prop :=
  ∀ (i : Instr) (s t : State), i.kind ∉ [.ldVxDt, .ldDtVx, .ldStVx] → exec i s = .next t →
    exec i s.timerTick = .next t.timerTick

/-! ## The invariant -/

/-- The reset state of every machine meets the invariant, the default machine's among them (R220).
Rests on the spec's decisions D8, D9 (92_eei_decisions.md). -/
def Obligations.ResetMeetsTheInvariant : Prop :=
  (∀ c : Config, (State.resetWith c).Inv) ∧ State.reset.Inv

/-- Every tick keeps the invariant: memory stays canonical, STATUS, FAULT_PC and FAULT_OP stay a
legal record, the boot record stays true (R30, R38, R194, R196).
Rests on the spec's decisions D9, D10 (92_eei_decisions.md). -/
def Obligations.StepKeepsTheInvariant : Prop :=
  ∀ s t : State, s.Inv → step s = .next t → t.Inv

/-- Every sequence of host events keeps the invariant, in any order (R203).
Rests on the spec's decisions D2, D9, D10, D28 (92_eei_decisions.md). -/
def Obligations.EventsKeepTheInvariant : Prop :=
  ∀ (es : List Event) (s t : State), s.Inv → deliverAll es s = .next t → t.Inv

/-! ## Register, arithmetic and logic instructions (spec/40_alu.md) -/

/-- LD_IMM and ADD_IMM (R100, R101): `6xkk` writes `kk`; `7xkk` adds it modulo 256, with no flag;
nothing but `V[x]` changes.
Rests on the spec's decisions D14, D15 (92_eei_decisions.md). -/
def Obligations.ImmediateFormsWriteVx : Prop :=
  ∀ (x : Nibble) (kk : Byte) (s : State),
    (decode (0x6#4 ++ x ++ kk) = .ldImm x kk ∧
      ∃ t, exec (.ldImm x kk) s = .next t ∧ t.reg x = kk ∧ onlyReg x s t) ∧
    (decode (0x7#4 ++ x ++ kk) = .addImm x kk ∧ ∃ t, exec (.addImm x kk) s = .next t ∧
      (t.reg x).toNat = ((s.reg x).toNat + kk.toNat) % 256 ∧ onlyReg x s t)

/-- LD_REG, OR, AND, XOR (R102 to R105): `8xy0` to `8xy3`, bit by bit, no flag.
Rests on the spec's decisions D13, D14, D15 (92_eei_decisions.md). -/
def Obligations.CopyAndLogicWorkBitwise : Prop :=
  ∀ (x y : Nibble) (s : State),
    (decode (0x8#4 ++ x ++ y ++ 0x0#4) = .ldReg x y ∧ ∃ t, exec (.ldReg x y) s = .next t ∧
      t.reg x = s.reg y ∧ onlyReg x s t) ∧
    (decode (0x8#4 ++ x ++ y ++ 0x1#4) = .or x y ∧ ∃ t, exec (.or x y) s = .next t ∧
      (∀ b, (t.reg x).getLsbD b = ((s.reg x).getLsbD b || (s.reg y).getLsbD b)) ∧ onlyReg x s t) ∧
    (decode (0x8#4 ++ x ++ y ++ 0x2#4) = .and x y ∧ ∃ t, exec (.and x y) s = .next t ∧
      (∀ b, (t.reg x).getLsbD b = ((s.reg x).getLsbD b && (s.reg y).getLsbD b)) ∧ onlyReg x s t) ∧
    (decode (0x8#4 ++ x ++ y ++ 0x3#4) = .xor x y ∧ ∃ t, exec (.xor x y) s = .next t ∧
      (∀ b, (t.reg x).getLsbD b = ((s.reg x).getLsbD b ^^ (s.reg y).getLsbD b)) ∧ onlyReg x s t)

/-- ADD_REG (R106, R111): `8xy4`, VF = 1 when the sum exceeds 255, the low byte of the sum.
The encoding is the spec's decision D13, the write order for `x = 15` its decision D16
(92_eei_decisions.md; log entry 15). -/
def Obligations.AddRegSumAndCarry : Prop :=
  ∀ (x y : Nibble) (s : State), decode (0x8#4 ++ x ++ y ++ 0x4#4) = .addReg x y ∧
    ∃ t, exec (.addReg x y) s = .next t ∧
      wroteFlagAndResult x (if (s.reg x).toNat + (s.reg y).toNat > 255 then 1 else 0)
        (((s.reg x).toNat + (s.reg y).toNat) % 256) s t

/-- SUB (R107, R111, R113): `8xy5`, strict flag, wraparound.
The encoding is the spec's decision D13, the write order for `x = 15` its decision D16
(92_eei_decisions.md; log entry 15). -/
def Obligations.SubDifferenceAndStrictFlag : Prop :=
  ∀ (x y : Nibble) (s : State), decode (0x8#4 ++ x ++ y ++ 0x5#4) = .sub x y ∧
    ∃ t, exec (.sub x y) s = .next t ∧
      wroteFlagAndResult x (if (s.reg x).toNat > (s.reg y).toNat then 1 else 0)
        (if (s.reg x).toNat ≥ (s.reg y).toNat then (s.reg x).toNat - (s.reg y).toNat
          else (s.reg x).toNat + 256 - (s.reg y).toNat) s t

/-- SHR (R108, R111): `8xy6`, VF = bit 0, logical shift by one, `y` unused.
The encoding is the spec's decision D13, the write order for `x = 15` its decision D16
(92_eei_decisions.md; log entry 15). -/
def Obligations.ShrHalvesAndKeepsTheBit : Prop :=
  ∀ (x y : Nibble) (s : State), decode (0x8#4 ++ x ++ y ++ 0x6#4) = .shr x y ∧
    ∃ t, exec (.shr x y) s = .next t ∧
      wroteFlagAndResult x ((s.reg x).toNat % 2) ((s.reg x).toNat / 2) s t

/-- SUBN (R109, R111, R113): `8xy7`, the mirror of SUB.
The encoding is the spec's decision D13, the write order for `x = 15` its decision D16
(92_eei_decisions.md; log entry 15). -/
def Obligations.SubnDifferenceAndStrictFlag : Prop :=
  ∀ (x y : Nibble) (s : State), decode (0x8#4 ++ x ++ y ++ 0x7#4) = .subn x y ∧
    ∃ t, exec (.subn x y) s = .next t ∧
      wroteFlagAndResult x (if (s.reg y).toNat > (s.reg x).toNat then 1 else 0)
        (if (s.reg y).toNat ≥ (s.reg x).toNat then (s.reg y).toNat - (s.reg x).toNat
          else (s.reg y).toNat + 256 - (s.reg x).toNat) s t

/-- SHL (R110, R111): `8xyE`, VF = bit 7, doubling modulo 256, `y` unused.
The encoding is the spec's decision D13, the write order for `x = 15` its decision D16
(92_eei_decisions.md; log entry 15). -/
def Obligations.ShlDoublesAndKeepsTheBit : Prop :=
  ∀ (x y : Nibble) (s : State), decode (0x8#4 ++ x ++ y ++ 0xE#4) = .shl x y ∧
    ∃ t, exec (.shl x y) s = .next t ∧
      wroteFlagAndResult x ((s.reg x).toNat / 128) (2 * (s.reg x).toNat % 256) s t

/-- RND (R112): `Cxkk`, a fresh draw ANDed with `kk`; it holds whatever the draw is (log entry 2).
Rests on the spec's decisions D14, D25 (92_eei_decisions.md). -/
def Obligations.RndMasksAFreshDraw : Prop :=
  ∀ (x : Nibble) (kk : Byte) (s : State), decode (0xC#4 ++ x ++ kk) = .rnd x kk ∧
    ∃ t, exec (.rnd x kk) s = .next t ∧
      (∀ b, (t.reg x).getLsbD b = ((Config.freeByte s.draws).getLsbD b && kk.getLsbD b)) ∧
      t.draws = s.draws + 1 ∧
      t = { s with v := t.v, draws := t.draws } ∧ ∀ r, r ≠ x → t.reg r = s.reg r

/-! ## Control transfer (spec/41_control_flow.md) -/

/-- JP (R120): `1nnn`, PC becomes the target, absolute and below 0x1000; nothing else changes. -/
def Obligations.JpSetsPc : Prop :=
  ∀ (nnn : Addr) (s : State), decode (0x1#4 ++ nnn) = .jp nnn ∧
    ∃ t, exec (.jp nnn) s = .next t ∧ t.pc.toNat = nnn.toNat ∧ t = { s with pc := t.pc }

/-- JP_V0 (R122): `Bnnn`, PC becomes the target plus V0 as a 16-bit sum; only PC changes.
Rests on the spec's decisions D14, D32 (92_eei_decisions.md). -/
def Obligations.JpV0AddsV0 : Prop :=
  ∀ (nnn : Addr) (s : State), decode (0xB#4 ++ nnn) = .jpV0 nnn ∧
    ∃ t, exec (.jpV0 nnn) s = .next t ∧ t.pc.toNat = nnn.toNat + (s.reg 0).toNat ∧
      t = { s with pc := t.pc }

/-- CALL (R121, R191): pushes the post-fetch PC and jumps; at `SP = 16` it is fatal and writes only
STATUS, FAULT_PC and FAULT_OP.
Rests on the spec's decisions D9, D10, D31 (92_eei_decisions.md). -/
def Obligations.CallPushesOrOverflows : Prop :=
  ∀ (nnn : Addr) (s : State), decode (0x2#4 ++ nnn) = .call nnn ∧
    (∀ h : s.sp.val < 16, ∃ t, exec (.call nnn) s = .next t ∧
      t.stack[s.sp.val] = s.pc ∧ (∀ k : Fin 16, k.val ≠ s.sp.val → t.stack[k.val] = s.stack[k.val]) ∧
      t.sp.val = s.sp.val + 1 ∧ t.pc.toNat = nnn.toNat ∧
      t = { s with stack := t.stack, sp := t.sp, pc := t.pc }) ∧
    (s.sp = 16 → exec (.call nnn) s = .next
      { s with status := .stackOverflow, faultPc := s.pc - 2, faultOp := 0x2#4 ++ nnn })

/-- RET (R123, R192): pops into PC, the slot keeps its value; at `SP = 0` it is fatal and writes
only STATUS, FAULT_PC and FAULT_OP.
Rests on the spec's decisions D9, D10, D12, D31 (92_eei_decisions.md). -/
def Obligations.RetPopsOrUnderflows : Prop :=
  ∀ (mid : Byte) (s : State), decode (0x0#4 ++ mid ++ 0xE#4) = .ret mid ∧
    (0 < s.sp.val → ∃ t, exec (.ret mid) s = .next t ∧ t.sp.val = s.sp.val - 1 ∧
      (∀ k : Fin 16, k.val + 1 = s.sp.val → t.pc = s.stack[k.val]) ∧
      t = { s with sp := t.sp, pc := t.pc }) ∧
    (s.sp = 0 → exec (.ret mid) s = .next
      { s with status := .stackUnderflow, faultPc := s.pc - 2, faultOp := 0x0#4 ++ mid ++ 0xE#4 })

/-- The two stack limits (R191, R192): from an empty stack any sixteen CALLs succeed and the
seventeenth is fatal; a fatal CALL or RET has written neither STACK nor SP nor PC; every `0??E` is a
RET, and fatal exactly on an empty stack.
Rests on the spec's decisions D9 (the codes of STATUS), D10 (PC keeps the post-fetch value), D12 (every
`0??E` is a RET) (92_eei_decisions.md; log entries 9 and 15). -/
def Obligations.StackLimitsAreExact : Prop :=
  (∀ (s : State) (targets : List Addr) (last : Addr), s.status = .run → s.sp = 0 →
    targets.length = 16 → ∃ t u, callAll targets s = .next t ∧ t.status = .run ∧ t.sp = 16 ∧
      exec (.call last) t = .next u ∧ u.status = .stackOverflow) ∧
  (∀ (nnn : Addr) (s : State), s.status = .run → ∃ t, exec (.call nnn) s = .next t ∧
    (t.status = .stackOverflow ↔ s.sp = 16) ∧
    (s.sp = 16 → t.stack = s.stack ∧ t.sp = s.sp ∧ t.pc = s.pc)) ∧
  ∀ (mid : Byte) (s : State), s.status = .run → decode (0x0#4 ++ mid ++ 0xE#4) = .ret mid ∧
    ∃ t, exec (.ret mid) s = .next t ∧ (t.status = .stackUnderflow ↔ s.sp = 0) ∧
      (s.sp = 0 → t.stack = s.stack ∧ t.sp = s.sp ∧ t.pc = s.pc)

/-- Fatal entry as a tick (R194): a CALL at `SP = 16` or a RET at `SP = 0` records its address and
its word, PC keeps `PC0 + 2`, and nothing else of the spec's state changes.
Rests on the spec's decisions D9, D10 (92_eei_decisions.md). -/
def Obligations.FatalTickRecordsAndSuppresses : Prop :=
  ∀ s : State, s.status = .run → (s.cfg.oorPolicy = .fault → s.pc.toNat + 2 ≤ memSize) →
    ((decode s.fetchWord).kind = .call → s.sp = 16 → step s = .next
      { s with status := .stackOverflow, faultPc := s.pc, faultOp := s.fetchWord,
               pc := s.pc + 2, bootOpen := false }) ∧
    ((decode s.fetchWord).kind = .ret → s.sp = 0 → step s = .next
      { s with status := .stackUnderflow, faultPc := s.pc, faultOp := s.fetchWord,
               pc := s.pc + 2, bootOpen := false })

/-- A CALL and the RET that its target holds come back after the CALL with the stack pointer as it
was; of all state only the freed stack slot differs, which keeps the pushed PC (R121, R123; 95_test_vectors.md E6).
Rests on the spec's decision D31 (92_eei_decisions.md). -/
def Obligations.CallThenRetReturns : Prop :=
  ∀ (nnn : Addr) (mid : Byte) (s : State) (_room : s.sp.val < 16),
    ∃ t u, exec (.call nnn) s = .next t ∧ exec (.ret mid) { t with pc := t.pc + 2 } = .next u ∧
      u.stack[s.sp.val] = s.pc ∧
      (∀ k : Fin 16, k.val ≠ s.sp.val → u.stack[k.val] = s.stack[k.val]) ∧
      u = { s with stack := u.stack }

/-- Skips (R128): each of the six kinds ends at `PC0 + 4` when its condition holds, else at
`PC0 + 2`, changes nothing but PC, and does not look at memory: with any other memory, the bytes
stepped over among it, it does the same. -/
def Obligations.SkipsStepOverOneSlot : Prop :=
  ∀ (i : Instr) (s : State), i.kind ∈ skipKinds → ∃ t, exec i s = .next t ∧
    t = { s with pc := t.pc } ∧ (t.pc = s.pc ∨ t.pc = s.pc + 2) ∧ t.pc = pcAfter i (s.pc - 2) s ∧
    ∀ m, exec i { s with mem := m } = .next { t with mem := m }

/-- Each of the six skips and its condition (R124 to R127, R150 to R152): the extra 2 exactly when
it holds, nothing but PC changes; the low nibble of `5xy?` and `9xy?` does not matter, and the key
tested is the one the low four bits of `V[x]` name.
Rests on the spec's decisions D12, D14, D20, D21 (92_eei_decisions.md). -/
def Obligations.EachSkipHasItsCondition : Prop :=
  (∀ (x : Nibble) (kk : Byte) (s : State),
    (decode (0x3#4 ++ x ++ kk) = .seImm x kk ∧ exec (.seImm x kk) s =
      .next { s with pc := if (s.reg x).toNat = kk.toNat then s.pc + 2 else s.pc }) ∧
    (decode (0x4#4 ++ x ++ kk) = .sneImm x kk ∧ exec (.sneImm x kk) s =
      .next { s with pc := if (s.reg x).toNat ≠ kk.toNat then s.pc + 2 else s.pc })) ∧
  (∀ (x y low : Nibble) (s : State),
    (decode (0x5#4 ++ x ++ y ++ low) = .seReg x y low ∧ exec (.seReg x y low) s =
      .next { s with pc := if (s.reg x).toNat = (s.reg y).toNat then s.pc + 2 else s.pc }) ∧
    (decode (0x9#4 ++ x ++ y ++ low) = .sneReg x y low ∧ exec (.sneReg x y low) s =
      .next { s with pc := if (s.reg x).toNat ≠ (s.reg y).toNat then s.pc + 2 else s.pc })) ∧
  ∀ (x : Nibble) (s : State),
    (decode (0xE#4 ++ x ++ 0x9E#8) = .skp x ∧ exec (.skp x) s = .next
      { s with pc := if s.keys[(s.reg x).toNat % 16] = true then s.pc + 2 else s.pc }) ∧
    (decode (0xE#4 ++ x ++ 0xA1#8) = .sknp x ∧ exec (.sknp x) s = .next
      { s with pc := if s.keys[(s.reg x).toNat % 16] = false then s.pc + 2 else s.pc })

/-! ## Display (spec/42_display.md) -/

/-- CLS (R140): `0??0`, every pixel off, DIRTY set, nothing else.
Rests on the spec's decisions D12, D15, D24 (92_eei_decisions.md). -/
def Obligations.ClsBlanksTheScreen : Prop :=
  ∀ (mid : Byte) (s : State), decode (0x0#4 ++ mid ++ 0x0#4) = .cls mid ∧
    ∃ t, exec (.cls mid) s = .next t ∧ (∀ px py : Nat, pixelAt t.fb px py = false) ∧
      t.dirty = true ∧ t = { s with fb := t.fb, dirty := t.dirty }

/-- DRW (R141, R142): `Dxyn`; the loop of the rule is the closed form: each pixel on the screen is
XORed with the sprite's bit, VF is 1 exactly when an on pixel was turned off, DIRTY is set, nothing
wraps, nothing else changes.
Rests on the spec's decisions D5, D16, D18, D23, D24 (92_eei_decisions.md). -/
def Obligations.DrwXorsTheSpriteAndFlagsCollision : Prop :=
  ∀ (x y n : Nibble) (s : State), decode (0xD#4 ++ x ++ y ++ n) = .drw x y n ∧
    (s.operandInRange (min n.toNat (32 - (s.reg y).toNat % 32)) →
    ∃ t, exec (.drw x y n) s = .next t ∧
      (∀ px py : Nat, px < 64 → py < 32 → pixelAt t.fb px py = (pixelAt s.fb px py ^^
        s.spriteOn ((s.reg x).toNat % 64) ((s.reg y).toNat % 32) n.toNat px py)) ∧
      (t.reg 15).toNat =
        (if s.collides ((s.reg x).toNat % 64) ((s.reg y).toNat % 32) n.toNat then 1 else 0) ∧
      (∀ r, r ≠ 15 → t.reg r = s.reg r) ∧ t.dirty = true ∧
      t = { s with v := t.v, fb := t.fb, dirty := t.dirty })

/-- Drawing the same sprite twice at the same origin restores the framebuffer; the second draw
reports a collision exactly when a sprite bit on the screen fell on a pixel that was off (R143, made
exact: see NOTES.md).
Rests on the spec's decision D23 (92_eei_decisions.md). -/
def Obligations.DrawingTwiceRestores : Prop :=
  ∀ (x y n : Nibble) (s t u : State), x ≠ 15 → y ≠ 15 →
    exec (.drw x y n) s = .next t → exec (.drw x y n) t = .next u →
    u.fb = s.fb ∧
    ((u.reg 15).toNat = 1 ↔ ∃ (px : Fin 64) (py : Fin 32), pixelAt s.fb px.val py.val = false ∧
      s.spriteOn ((s.reg x).toNat % 64) ((s.reg y).toNat % 32) n.toNat px.val py.val = true)

/-! ## Keypad (spec/43_keypad.md) -/

/-- LD_VX_K (R153): the lowest pressed key in `0 .. WAITKEY_LAST` goes to `V[x]`; with none, PC goes
back to the instruction and nothing else changes.
Rests on the spec's decision D22 (92_eei_decisions.md). -/
def Obligations.WaitKeyTakesTheLowestOrRewinds : Prop :=
  ∀ (x : Nibble) (s : State), decode (0xF#4 ++ x ++ 0x0A#8) = .ldVxK x ∧
    (∀ k : Fin 16, k.val ≤ (if s.cfg.waitKeyLast = .literal then 0xE else 0xF) →
      s.keys[k.val] = true → (∀ j : Fin 16, j < k → s.keys[j.val] = false) →
      ∃ t, exec (.ldVxK x) s = .next t ∧ (t.reg x).toNat = k.val ∧ onlyReg x s t) ∧
    ((∀ k : Fin 16, k.val ≤ (if s.cfg.waitKeyLast = .literal then 0xE else 0xF) →
      s.keys[k.val] = false) → exec (.ldVxK x) s = .next { s with pc := s.pc - 2 })

/-- While no key in range is pressed, any number of ticks on LD_VX_K changes nothing at all: the
counter appears unmoved across idle cycles (R154).
Rests on the spec's decision D22 (92_eei_decisions.md). -/
def Obligations.IdleKeyWaitChangesNothing : Prop :=
  ∀ (n : Nat) (x : Nibble) (s : State), s.status = .run → s.bootOpen = false →
    (s.cfg.oorPolicy = .fault → s.pc.toNat + 2 ≤ memSize) → decode s.fetchWord = .ldVxK x →
    ¬ s.keyInRange → deliverAll (List.replicate n .cpuTick) s = .next s

/-! ## Timers, index register, memory (spec/44_timer_index_memory.md) -/

/-- LD_VX_DT, LD_DT_VX, LD_ST_VX (R160, R161, R162).
Rests on the spec's decisions D13, D14 (92_eei_decisions.md). -/
def Obligations.TimerAccessMovesWholeBytes : Prop :=
  ∀ (x : Nibble) (s : State),
    (decode (0xF#4 ++ x ++ 0x07#8) = .ldVxDt x ∧ ∃ t, exec (.ldVxDt x) s = .next t ∧
      t.reg x = s.dt ∧ onlyReg x s t) ∧
    (decode (0xF#4 ++ x ++ 0x15#8) = .ldDtVx x ∧ ∃ t, exec (.ldDtVx x) s = .next t ∧
      t.dt = s.reg x ∧ t = { s with dt := t.dt }) ∧
    (decode (0xF#4 ++ x ++ 0x18#8) = .ldStVx x ∧ ∃ t, exec (.ldStVx x) s = .next t ∧
      t.st = s.reg x ∧ t = { s with st := t.st })

/-- LD_I, ADD_I, LD_F (R163, R164, R165): only I changes; the sum modulo 2^16; the whole byte as
digit.
Rests on the spec's decisions D3, D13, D14, D15, D17, D19 (92_eei_decisions.md). -/
def Obligations.IndexInstructionsSetI : Prop :=
  (∀ (nnn : Addr) (s : State), decode (0xA#4 ++ nnn) = .ldI nnn ∧
    ∃ t, exec (.ldI nnn) s = .next t ∧ t.index.toNat = nnn.toNat ∧ t = { s with index := t.index }) ∧
  ∀ (x : Nibble) (s : State),
    (decode (0xF#4 ++ x ++ 0x1E#8) = .addI x ∧ ∃ t, exec (.addI x) s = .next t ∧
      t.index.toNat = (s.index.toNat + (s.reg x).toNat) % 65536 ∧ t = { s with index := t.index }) ∧
    (decode (0xF#4 ++ x ++ 0x29#8) = .ldF x ∧ ∃ t, exec (.ldF x) s = .next t ∧
      t.index.toNat = s.cfg.fontBase.val + 5 * (s.reg x).toNat ∧ t = { s with index := t.index })

/-- LD_B (R166, R169): hundreds, tens, ones at I, I+1, I+2 modulo 4096; every other byte and all
other state unchanged.
Rests on the spec's decisions D5 (modulo 4096), D13 (the encoding), D18 (I unchanged)
(92_eei_decisions.md; log entry 15). -/
def Obligations.LdBStoresThreeDigits : Prop :=
  ∀ (x : Nibble) (s : State), decode (0xF#4 ++ x ++ 0x33#8) = .ldB x ∧
    (s.operandInRange 3 → ∃ t, exec (.ldB x) s = .next t ∧
      (t.readByte s.index.toNat).toNat = (s.reg x).toNat / 100 ∧
      (t.readByte (s.index.toNat + 1)).toNat = (s.reg x).toNat / 10 % 10 ∧
      (t.readByte (s.index.toNat + 2)).toNat = (s.reg x).toNat % 10 ∧
      (∀ a : Nat, (∀ k < 3, a % 4096 ≠ (s.index.toNat + k) % 4096) → t.readByte a = s.readByte a) ∧
      t = { s with mem := t.mem })

/-- LD_MEM_VX (R167, R169): `V[0]` to `V[x]` at I to I+x modulo 4096; every other byte and all other
state unchanged.
Rests on the spec's decisions D5, D13, D18 (92_eei_decisions.md). -/
def Obligations.LdMemVxStoresRegisters : Prop :=
  ∀ (x : Nibble) (s : State), decode (0xF#4 ++ x ++ 0x55#8) = .ldMemVx x ∧
    (s.operandInRange (x.toNat + 1) → ∃ t, exec (.ldMemVx x) s = .next t ∧
      (∀ k : Nibble, k.toNat ≤ x.toNat → t.readByte (s.index.toNat + k.toNat) = s.reg k) ∧
      (∀ a : Nat, (∀ k ≤ x.toNat, a % 4096 ≠ (s.index.toNat + k) % 4096) →
        t.readByte a = s.readByte a) ∧
      t = { s with mem := t.mem })

/-- LD_VX_MEM (R168, R169): the bytes at I to I+x modulo 4096 to `V[0]` to `V[x]`; every other
register and all other state unchanged.
Rests on the spec's decisions D5, D13, D18 (92_eei_decisions.md). -/
def Obligations.LdVxMemLoadsRegisters : Prop :=
  ∀ (x : Nibble) (s : State), decode (0xF#4 ++ x ++ 0x65#8) = .ldVxMem x ∧
    (s.operandInRange (x.toNat + 1) → ∃ t, exec (.ldVxMem x) s = .next t ∧
      (∀ k : Nibble, k.toNat ≤ x.toNat → t.reg k = s.readByte (s.index.toNat + k.toNat)) ∧
      (∀ k : Nibble, x.toNat < k.toNat → t.reg k = s.reg k) ∧
      t = { s with v := t.v })

/-! ## The fallback (spec/45_noop.md) -/

/-- NOP (R180, R181): an unmatched word advances PC by 2, changes no other piece of the spec's
state and emits its log event, and no other tick emits one.
Rests on the spec's decision D27 (92_eei_decisions.md). -/
def Obligations.NopAdvancesAndIsLogged : Prop :=
  (∀ (op : Word) (s : State), ∃ t, exec (.nop op) s = .next t ∧ t = s) ∧
  ∀ s : State, s.status = .run → (s.cfg.oorPolicy = .fault → s.pc.toNat + 2 ≤ memSize) →
    ((decode s.fetchWord).kind = .nop → deliver .cpuTick s = .next
      ({ s with pc := s.pc + 2, bootOpen := false }, .unrecognized s.pc s.fetchWord)) ∧
    ((decode s.fetchWord).kind ≠ .nop → ∀ t r, deliver .cpuTick s = .next (t, r) → r = .none)

/-! ## Fatal conditions, timers and host events (spec/60_exceptions.md, 70_reset_and_hazards.md) -/

/-- The halted state (R195): a tick changes nothing and logs nothing; timers, keys and display reads
keep working; no load is accepted; `reset` ends it.
Rests on the spec's decisions D10, D11, D28 (92_eei_decisions.md). -/
def Obligations.HaltedStateIsInert : Prop :=
  ∀ s : State, s.faulted →
    step s = .next s ∧ deliver .cpuTick s = .next (s, .none) ∧
    (∃ t, deliver .timerTick s = .next (t, .none) ∧ t.dt.toNat = s.dt.toNat - 1 ∧
      t.st.toNat = s.st.toNat - 1) ∧
    (∀ k : Fin 16, ∃ t u, deliver (.keyDown k.val) s = .next (t, .none) ∧ t.keys[k.val] = true ∧
      deliver (.keyUp k.val) s = .next (u, .none) ∧ u.keys[k.val] = false) ∧
    deliver .fbRead s = .next (s, .grid s.fb) ∧
    (∃ t, deliver .consumeDirty s = .next (t, .dirty s.dirty) ∧ t.dirty = false) ∧
    (∀ bytes, deliver (.loadProgram bytes) s = .refused .loadOutsideBoot) ∧
    ∃ t, deliver .reset s = .next (t, .none) ∧ t.status = .run ∧ t.pc = 0x200 ∧ t.sp = 0

/-- A fatal condition stays recorded, and PC where it stopped, through every event but `reset`
(R30, R196).
Rests on the spec's decisions D9, D10 (92_eei_decisions.md). -/
def Obligations.FatalStatusStaysUntilReset : Prop :=
  ∀ (e : Event) (s t : State) (r : Reply), s.faulted → e ≠ .reset →
    deliver e s = .next (t, r) →
    t.status = s.status ∧ t.faultPc = s.faultPc ∧ t.faultOp = s.faultOp ∧ t.pc = s.pc

/-- Each fatal condition has one cause (R190, R198): STATUS leaves RUN only by a CALL at `SP = 16`, a
RET at `SP = 0`, or a load of more than 3584 bytes.
Rests on the spec's decision D9 (92_eei_decisions.md). -/
def Obligations.FatalConditionsHaveOneCauseEach : Prop :=
  ∀ (e : Event) (s t : State) (r : Reply), s.status = .run → deliver e s = .next (t, r) →
    (t.status = .stackOverflow → e = .cpuTick ∧ (decode s.fetchWord).kind = .call ∧ s.sp = 16) ∧
    (t.status = .stackUnderflow → e = .cpuTick ∧ (decode s.fetchWord).kind = .ret ∧ s.sp = 0) ∧
    (t.status = .programTooLarge → ∃ bytes, e = .loadProgram bytes ∧ 3584 < bytes.length)

/-- The normal end (R226): at a jump to itself any number of ticks changes nothing, and the timers
go on. The model's boot bit is closed, as after every tick (log entry 3).
Rests on the spec's decision D30 (92_eei_decisions.md). -/
def Obligations.NormalEndIsStable : Prop :=
  ∀ (n : Nat) (s : State), s.atNormalEnd → s.bootOpen = false →
    deliverAll (List.replicate n .cpuTick) s = .next s ∧ s.timerTick.atNormalEnd

/-- What the host cannot touch (R20, R203, R213): of all events but `reset` and `cpu_tick`, none
changes a register, PC, I, the stack, SP or the framebuffer; memory and STATUS change by
`load_program` only, the timers by `timer_tick` only, a key by key events only, DIRTY by
`consume_dirty` only.
Rests on the spec's decisions D1, D2 (92_eei_decisions.md). -/
def Obligations.HostEventsTouchOnlyTheirOwnState : Prop :=
  ∀ (e : Event) (s t : State) (r : Reply), e ≠ .reset → e ≠ .cpuTick →
    deliver e s = .next (t, r) →
    t.v = s.v ∧ t.pc = s.pc ∧ t.index = s.index ∧ t.stack = s.stack ∧ t.sp = s.sp ∧ t.fb = s.fb ∧
    t.cfg = s.cfg ∧ t.draws = s.draws ∧
    ((∀ bytes, e ≠ .loadProgram bytes) → t.mem = s.mem ∧ t.status = s.status ∧
      t.faultPc = s.faultPc ∧ t.faultOp = s.faultOp ∧ t.bootOpen = s.bootOpen) ∧
    (e ≠ .timerTick → t.dt = s.dt ∧ t.st = s.st) ∧ (e ≠ .consumeDirty → t.dirty = s.dirty) ∧
    ((∀ c, e ≠ .keyDown c ∧ e ≠ .keyUp c) → t.keys = s.keys)

/-- `timer_tick` (R200): each timer counts down by itself and stops at zero; `n` ticks take `n` off
each, floored, and nothing else changes.
Rests on the spec's decision D11 (92_eei_decisions.md). -/
def Obligations.TimersCountDownToZero : Prop :=
  ∀ (n : Nat) (s : State),
    ∃ t, deliverAll (List.replicate n .timerTick) s = .next t ∧
      t.dt.toNat = s.dt.toNat - n ∧ t.st.toNat = s.st.toNat - n ∧
      t = { s with dt := t.dt, st := t.st }

/-- `load_program` (R193, R204): up to 3584 bytes go to 0x200 and up and no other byte changes; a
longer sequence records FATAL_PROGRAM_TOO_LARGE and copies nothing.
Rests on the spec's decisions D9, D28 (92_eei_decisions.md). -/
def Obligations.LoadProgramCopiesOrRejects : Prop :=
  ∀ (bytes : List Byte) (s : State), s.bootOpen = true → s.status = .run →
    (bytes.length ≤ 3584 → ∃ t, deliver (.loadProgram bytes) s = .next (t, .loadOk) ∧
      (∀ (k : Nat) (h : k < bytes.length), t.readByte (0x200 + k) = bytes[k]) ∧
      (∀ a : Nat, a < 4096 → a < 0x200 ∨ 0x200 + bytes.length ≤ a → t.readByte a = s.readByte a) ∧
      t = { s with mem := t.mem, bootOpen := false }) ∧
    (3584 < bytes.length → ∃ t, deliver (.loadProgram bytes) s = .next (t, .loadError) ∧
      t = { s with status := .programTooLarge, faultPc := 0, faultOp := 0, bootOpen := false })

/-- The boot contract (R204, R222, R223): after a load, or after a tick that stopped nowhere, no
load is accepted. That the model refuses such a load is its own choice (log entry 3).
Rests on the spec's decision D28 (92_eei_decisions.md). -/
def Obligations.LoadIsAcceptedOnlyOnceAndBeforeTicks : Prop :=
  ∀ (s t : State) (r : Reply) (first : List Byte),
    deliver .cpuTick s = .next (t, r) ∨ deliver (.loadProgram first) s = .next (t, r) →
    ∀ bytes, deliver (.loadProgram bytes) t = .refused .loadOutsideBoot

/-- `key_down` and `key_up` (R205): the slot named is set or cleared and nothing else changes; a
code above 15 has no move.
Rests on the spec's decision D21 (92_eei_decisions.md). -/
def Obligations.KeyEventsSetOneSlot : Prop :=
  ∀ (code : Nat) (s : State),
    (∀ h : code < 16, ∃ t u, deliver (.keyDown code) s = .next (t, .none) ∧
      deliver (.keyUp code) s = .next (u, .none) ∧
      t.keys[code] = true ∧ u.keys[code] = false ∧
      (∀ k : Fin 16, k.val ≠ code → t.keys[k.val] = s.keys[k.val] ∧ u.keys[k.val] = s.keys[k.val]) ∧
      t = { s with keys := t.keys } ∧ u = { s with keys := u.keys }) ∧
    (16 ≤ code → deliver (.keyDown code) s = .refused .keyCodeOutOfRange ∧
      deliver (.keyUp code) s = .refused .keyCodeOutOfRange)

/-- `fb_read`, `consume_dirty`, `status_read` (R206, R207, R213): what each returns, and that only
`consume_dirty` changes something, DIRTY.
Rests on the spec's decisions D2, D9, D26 (92_eei_decisions.md). -/
def Obligations.HostReadsReturnTheState : Prop :=
  ∀ s : State, deliver .fbRead s = .next (s, .grid s.fb) ∧
    (∃ t, deliver .consumeDirty s = .next (t, .dirty s.dirty) ∧ t = { s with dirty := false }) ∧
    ∃ code, deliver .statusRead s = .next (s, .status code s.faultPc s.faultOp s.st) ∧
      (s.status = .run → code.toNat = 0) ∧ (s.status = .stackOverflow → code.toNat = 1) ∧
      (s.status = .stackUnderflow → code.toNat = 2) ∧ (s.status = .programTooLarge → code.toNat = 3)

/-- `reset` (R220, R221): from every state, the table of R220; memory is 0x00 but for the font
table at `FONT_BASE`. The parameters stay the machine's (log entry 1). On a machine of default
parameters that is `State.reset`, whatever draws were taken (log entry 2).
Rests on the spec's decisions D3, D4, D8, D9, D37 (92_eei_decisions.md). -/
def Obligations.ResetGivesTheResetState : Prop :=
  ∀ s : State, (s.cfg = Config.default →
      deliver .reset s = .next ({ State.reset with draws := s.draws }, .none)) ∧
    ∃ t, deliver .reset s = .next (t, .none) ∧
    (∀ r, t.reg r = 0) ∧ t.pc = 0x0200 ∧ t.index = 0 ∧ (∀ k : Fin 16, t.stack[k.val] = 0) ∧
    t.sp = 0 ∧ t.dt = 0 ∧ t.st = 0 ∧ t.status = .run ∧ t.faultPc = 0 ∧ t.faultOp = 0 ∧
    (∀ i : Fin 80, t.readByte (s.cfg.fontBase.val + i.val) = s.cfg.fontTable[i.val]) ∧
    (∀ a : Nat, a < 4096 → a < s.cfg.fontBase.val ∨ s.cfg.fontBase.val + 80 ≤ a →
      t.readByte a = 0) ∧
    (∀ px py : Nat, pixelAt t.fb px py = false) ∧ t.dirty = false ∧
    (∀ k : Fin 16, t.keys[k.val] = false) ∧ t.cfg = s.cfg
end

