-- ==== Sys2Proof/Laws/Decode.lean ====
section
/-!
SUPPORT. The fields of a word written as its parts, and a word as its fields (R72, R73): one lemma
per format and field, all by arithmetic on the numbers.
-/

namespace Sys2Proof

/-! ## Words and fields as numbers (R7, R72) -/

theorem toNat_concat {a b : Nat} (p : BitVec a) (q : BitVec b) :
    (p ++ q).toNat = p.toNat * 2 ^ b + q.toNat := by
  rw [BitVec.toNat_append, ← Nat.shiftLeft_add_eq_or_of_lt q.isLt, Nat.shiftLeft_eq]

theorem formatA_toNat (f : Nibble) (nnn : Addr) :
    BitVec.toNat (f ++ nnn : Word) = f.toNat * 4096 + nnn.toNat := toNat_concat f nnn

theorem formatXK_toNat (f x : Nibble) (kk : Byte) :
    BitVec.toNat (f ++ x ++ kk : Word) = f.toNat * 4096 + x.toNat * 256 + kk.toNat := by
  have h := toNat_concat (f ++ x) kk
  rw [toNat_concat f x] at h
  exact h.trans (by omega)

theorem formatXYN_toNat (f x y n : Nibble) :
    BitVec.toNat (f ++ x ++ y ++ n : Word) =
      f.toNat * 4096 + x.toNat * 256 + y.toNat * 16 + n.toNat := by
  have h := toNat_concat (f ++ x ++ y) n
  rw [toNat_concat (f ++ x) y, toNat_concat f x] at h
  exact h.trans (by omega)

theorem formatZ_toNat (f n : Nibble) (mid : Byte) :
    BitVec.toNat (f ++ mid ++ n : Word) = f.toNat * 4096 + mid.toNat * 16 + n.toNat := by
  have h := toNat_concat (f ++ mid) n
  rw [toNat_concat f mid] at h
  exact h.trans (by omega)

/-- The fetched word as a number, high byte first (R51). -/
theorem wordOf_toNat (hi lo : Byte) : (wordOf hi lo).toNat = hi.toNat * 256 + lo.toNat :=
  toNat_concat hi lo

theorem famOf_toNat (w : Word) : (famOf w).toNat = w.toNat / 4096 := by
  simp [famOf, BitVec.extractLsb'_toNat, Nat.shiftRight_eq_div_pow]; omega
theorem xOf_toNat (w : Word) : (xOf w).toNat = w.toNat / 256 % 16 := by
  simp [xOf, BitVec.extractLsb'_toNat, Nat.shiftRight_eq_div_pow]
theorem yOf_toNat (w : Word) : (yOf w).toNat = w.toNat / 16 % 16 := by
  simp [yOf, BitVec.extractLsb'_toNat, Nat.shiftRight_eq_div_pow]
theorem nOf_toNat (w : Word) : (nOf w).toNat = w.toNat % 16 := by
  simp [nOf, BitVec.extractLsb'_toNat]
theorem kkOf_toNat (w : Word) : (kkOf w).toNat = w.toNat % 256 := by
  simp [kkOf, BitVec.extractLsb'_toNat]
theorem nnnOf_toNat (w : Word) : (nnnOf w).toNat = w.toNat % 4096 := by
  simp [nnnOf, BitVec.extractLsb'_toNat]
theorem midOf_toNat (w : Word) : (midOf w).toNat = w.toNat / 16 % 256 := by
  simp [midOf, BitVec.extractLsb'_toNat, Nat.shiftRight_eq_div_pow]

/-! ## Format A, `fam ++ nnn` -/

section
variable (f : Nibble) (nnn : Addr)

@[simp] theorem famOf_formatA : famOf (f ++ nnn) = f := by
  apply BitVec.eq_of_toNat_eq; rw [famOf_toNat, formatA_toNat]; omega
@[simp] theorem nnnOf_formatA : nnnOf (f ++ nnn) = nnn := by
  apply BitVec.eq_of_toNat_eq; rw [nnnOf_toNat, formatA_toNat]; omega
end

theorem formatA_eta (w : Word) : famOf w ++ nnnOf w = w := by
  apply BitVec.eq_of_toNat_eq; rw [formatA_toNat, famOf_toNat, nnnOf_toNat]; omega

/-! ## Formats XK and XS, `fam ++ x ++ kk` -/

section
variable (f x : Nibble) (kk : Byte)

@[simp] theorem famOf_formatXK : famOf (f ++ x ++ kk) = f := by
  apply BitVec.eq_of_toNat_eq; rw [famOf_toNat, formatXK_toNat]; omega
@[simp] theorem xOf_formatXK : xOf (f ++ x ++ kk) = x := by
  apply BitVec.eq_of_toNat_eq; rw [xOf_toNat, formatXK_toNat]; omega
@[simp] theorem kkOf_formatXK : kkOf (f ++ x ++ kk) = kk := by
  apply BitVec.eq_of_toNat_eq; rw [kkOf_toNat, formatXK_toNat]; omega
end

theorem formatXK_eta (w : Word) : famOf w ++ xOf w ++ kkOf w = w := by
  apply BitVec.eq_of_toNat_eq; rw [formatXK_toNat, famOf_toNat, xOf_toNat, kkOf_toNat]; omega

/-! ## Formats XY, XYS and XYN, `fam ++ x ++ y ++ n` -/

section
variable (f x y n : Nibble)

@[simp] theorem famOf_formatXYN : famOf (f ++ x ++ y ++ n) = f := by
  apply BitVec.eq_of_toNat_eq; rw [famOf_toNat, formatXYN_toNat]; omega
@[simp] theorem xOf_formatXYN : xOf (f ++ x ++ y ++ n) = x := by
  apply BitVec.eq_of_toNat_eq; rw [xOf_toNat, formatXYN_toNat]; omega
@[simp] theorem yOf_formatXYN : yOf (f ++ x ++ y ++ n) = y := by
  apply BitVec.eq_of_toNat_eq; rw [yOf_toNat, formatXYN_toNat]; omega
@[simp] theorem nOf_formatXYN : nOf (f ++ x ++ y ++ n) = n := by
  apply BitVec.eq_of_toNat_eq; rw [nOf_toNat, formatXYN_toNat]; omega
end

theorem formatXYN_eta (w : Word) : famOf w ++ xOf w ++ yOf w ++ nOf w = w := by
  apply BitVec.eq_of_toNat_eq
  rw [formatXYN_toNat, famOf_toNat, xOf_toNat, yOf_toNat, nOf_toNat]; omega

/-! ## Format Z, `fam ++ mid ++ n` -/

section
variable (f n : Nibble) (mid : Byte)

@[simp] theorem famOf_formatZ : famOf (f ++ mid ++ n) = f := by
  apply BitVec.eq_of_toNat_eq; rw [famOf_toNat, formatZ_toNat]; omega
@[simp] theorem midOf_formatZ : midOf (f ++ mid ++ n) = mid := by
  apply BitVec.eq_of_toNat_eq; rw [midOf_toNat, formatZ_toNat]; omega
@[simp] theorem nOf_formatZ : nOf (f ++ mid ++ n) = n := by
  apply BitVec.eq_of_toNat_eq; rw [nOf_toNat, formatZ_toNat]; omega
end

theorem formatZ_eta (w : Word) : famOf w ++ midOf w ++ nOf w = w := by
  apply BitVec.eq_of_toNat_eq; rw [formatZ_toNat, famOf_toNat, midOf_toNat, nOf_toNat]; omega

/-! ## The dispatch, family by family (R74) -/

/-- A field equals a constant exactly when its number does. -/
theorem famOf_eq (op : Word) (c : Nibble) : famOf op = c ↔ op.toNat / 4096 = c.toNat := by
  rw [← famOf_toNat, BitVec.toNat_inj]
theorem nOf_eq (op : Word) (c : Nibble) : nOf op = c ↔ op.toNat % 16 = c.toNat := by
  rw [← nOf_toNat, BitVec.toNat_inj]
theorem kkOf_eq (op : Word) (c : Byte) : kkOf op = c ↔ op.toNat % 256 = c.toNat := by
  rw [← kkOf_toNat, BitVec.toNat_inj]

section
variable {op : Word}
theorem decode_family0 (h : famOf op = 0) : decode op = decodeFamily0 op := by
  simp [decode, h]
theorem decode_family1 (h : famOf op = 1) : decode op = .jp (nnnOf op) := by
  simp [decode, h]
theorem decode_family2 (h : famOf op = 2) : decode op = .call (nnnOf op) := by
  simp [decode, h]
theorem decode_family3 (h : famOf op = 3) : decode op = .seImm (xOf op) (kkOf op) := by
  simp [decode, h]
theorem decode_family4 (h : famOf op = 4) : decode op = .sneImm (xOf op) (kkOf op) := by
  simp [decode, h]
theorem decode_family5 (h : famOf op = 5) : decode op = .seReg (xOf op) (yOf op) (nOf op) := by
  simp [decode, h]
theorem decode_family6 (h : famOf op = 6) : decode op = .ldImm (xOf op) (kkOf op) := by
  simp [decode, h]
theorem decode_family7 (h : famOf op = 7) : decode op = .addImm (xOf op) (kkOf op) := by
  simp [decode, h]
theorem decode_family8 (h : famOf op = 8) : decode op = decodeFamily8 op := by
  simp [decode, h]
theorem decode_family9 (h : famOf op = 9) : decode op = .sneReg (xOf op) (yOf op) (nOf op) := by
  simp [decode, h]
theorem decode_familyA (h : famOf op = 10) : decode op = .ldI (nnnOf op) := by
  simp [decode, h]
theorem decode_familyB (h : famOf op = 11) : decode op = .jpV0 (nnnOf op) := by
  simp [decode, h]
theorem decode_familyC (h : famOf op = 12) : decode op = .rnd (xOf op) (kkOf op) := by
  simp [decode, h]
theorem decode_familyD (h : famOf op = 13) : decode op = .drw (xOf op) (yOf op) (nOf op) := by
  simp [decode, h]
theorem decode_familyE (h : famOf op = 14) : decode op = decodeFamilyE op := by
  simp [decode, h]
theorem decode_familyF (h : famOf op = 15) : decode op = decodeFamilyF op := by
  simp [decode, h]
end

/-- Every nibble is one of sixteen. -/
theorem nibble_cases (f : Nibble) : f = 0 ∨ f = 1 ∨ f = 2 ∨ f = 3 ∨ f = 4 ∨ f = 5 ∨ f = 6 ∨ f = 7 ∨
    f = 8 ∨ f = 9 ∨ f = 10 ∨ f = 11 ∨ f = 12 ∨ f = 13 ∨ f = 14 ∨ f = 15 := by
  obtain ⟨⟨k, hk⟩⟩ := f
  interval_cases k <;> simp

/-! ## The bytes of a word -/

/-- The two bytes of a word, put together again, are the word (R51). -/
theorem wordOf_eta (w : Word) : wordOf (w.extractLsb' 8 8) (w.extractLsb' 0 8) = w := by
  apply BitVec.eq_of_toNat_eq
  rw [wordOf_toNat]
  simp [BitVec.extractLsb'_toNat, Nat.shiftRight_eq_div_pow]; omega

end Sys2Proof
end

