-- ==== Sys2Proof/Laws/State.lean ====
section
/-!
SUPPORT. One lemma per field per update of State, so that no proof unfolds a record update; and for
each update made of several, one lemma that says which fields it can change.
-/

namespace Sys2Proof.Machine

/-! ## setReg -/

@[simp] theorem State.setReg_v (s : State) (i : Nibble) (b : Byte) :
    (s.setReg i b).v = s.v.set i.toNat b i.isLt := rfl
@[simp] theorem State.setReg_pc (s : State) (i : Nibble) (b : Byte) :
    (s.setReg i b).pc = s.pc := rfl
@[simp] theorem State.setReg_index (s : State) (i : Nibble) (b : Byte) :
    (s.setReg i b).index = s.index := rfl
@[simp] theorem State.setReg_stack (s : State) (i : Nibble) (b : Byte) :
    (s.setReg i b).stack = s.stack := rfl
@[simp] theorem State.setReg_sp (s : State) (i : Nibble) (b : Byte) :
    (s.setReg i b).sp = s.sp := rfl
@[simp] theorem State.setReg_dt (s : State) (i : Nibble) (b : Byte) :
    (s.setReg i b).dt = s.dt := rfl
@[simp] theorem State.setReg_st (s : State) (i : Nibble) (b : Byte) :
    (s.setReg i b).st = s.st := rfl
@[simp] theorem State.setReg_status (s : State) (i : Nibble) (b : Byte) :
    (s.setReg i b).status = s.status := rfl
@[simp] theorem State.setReg_faultPc (s : State) (i : Nibble) (b : Byte) :
    (s.setReg i b).faultPc = s.faultPc := rfl
@[simp] theorem State.setReg_faultOp (s : State) (i : Nibble) (b : Byte) :
    (s.setReg i b).faultOp = s.faultOp := rfl
@[simp] theorem State.setReg_mem (s : State) (i : Nibble) (b : Byte) :
    (s.setReg i b).mem = s.mem := rfl
@[simp] theorem State.setReg_fb (s : State) (i : Nibble) (b : Byte) :
    (s.setReg i b).fb = s.fb := rfl
@[simp] theorem State.setReg_dirty (s : State) (i : Nibble) (b : Byte) :
    (s.setReg i b).dirty = s.dirty := rfl
@[simp] theorem State.setReg_keys (s : State) (i : Nibble) (b : Byte) :
    (s.setReg i b).keys = s.keys := rfl
@[simp] theorem State.setReg_cfg (s : State) (i : Nibble) (b : Byte) :
    (s.setReg i b).cfg = s.cfg := rfl
@[simp] theorem State.setReg_draws (s : State) (i : Nibble) (b : Byte) :
    (s.setReg i b).draws = s.draws := rfl
@[simp] theorem State.setReg_bootOpen (s : State) (i : Nibble) (b : Byte) :
    (s.setReg i b).bootOpen = s.bootOpen := rfl

/-! ## setPc -/

@[simp] theorem State.setPc_v (s : State) (w : Word) :
    (s.setPc w).v = s.v := rfl
@[simp] theorem State.setPc_pc (s : State) (w : Word) :
    (s.setPc w).pc = w := rfl
@[simp] theorem State.setPc_index (s : State) (w : Word) :
    (s.setPc w).index = s.index := rfl
@[simp] theorem State.setPc_stack (s : State) (w : Word) :
    (s.setPc w).stack = s.stack := rfl
@[simp] theorem State.setPc_sp (s : State) (w : Word) :
    (s.setPc w).sp = s.sp := rfl
@[simp] theorem State.setPc_dt (s : State) (w : Word) :
    (s.setPc w).dt = s.dt := rfl
@[simp] theorem State.setPc_st (s : State) (w : Word) :
    (s.setPc w).st = s.st := rfl
@[simp] theorem State.setPc_status (s : State) (w : Word) :
    (s.setPc w).status = s.status := rfl
@[simp] theorem State.setPc_faultPc (s : State) (w : Word) :
    (s.setPc w).faultPc = s.faultPc := rfl
@[simp] theorem State.setPc_faultOp (s : State) (w : Word) :
    (s.setPc w).faultOp = s.faultOp := rfl
@[simp] theorem State.setPc_mem (s : State) (w : Word) :
    (s.setPc w).mem = s.mem := rfl
@[simp] theorem State.setPc_fb (s : State) (w : Word) :
    (s.setPc w).fb = s.fb := rfl
@[simp] theorem State.setPc_dirty (s : State) (w : Word) :
    (s.setPc w).dirty = s.dirty := rfl
@[simp] theorem State.setPc_keys (s : State) (w : Word) :
    (s.setPc w).keys = s.keys := rfl
@[simp] theorem State.setPc_cfg (s : State) (w : Word) :
    (s.setPc w).cfg = s.cfg := rfl
@[simp] theorem State.setPc_draws (s : State) (w : Word) :
    (s.setPc w).draws = s.draws := rfl
@[simp] theorem State.setPc_bootOpen (s : State) (w : Word) :
    (s.setPc w).bootOpen = s.bootOpen := rfl

/-! ## setIndex -/

@[simp] theorem State.setIndex_v (s : State) (w : Word) :
    (s.setIndex w).v = s.v := rfl
@[simp] theorem State.setIndex_pc (s : State) (w : Word) :
    (s.setIndex w).pc = s.pc := rfl
@[simp] theorem State.setIndex_index (s : State) (w : Word) :
    (s.setIndex w).index = w := rfl
@[simp] theorem State.setIndex_stack (s : State) (w : Word) :
    (s.setIndex w).stack = s.stack := rfl
@[simp] theorem State.setIndex_sp (s : State) (w : Word) :
    (s.setIndex w).sp = s.sp := rfl
@[simp] theorem State.setIndex_dt (s : State) (w : Word) :
    (s.setIndex w).dt = s.dt := rfl
@[simp] theorem State.setIndex_st (s : State) (w : Word) :
    (s.setIndex w).st = s.st := rfl
@[simp] theorem State.setIndex_status (s : State) (w : Word) :
    (s.setIndex w).status = s.status := rfl
@[simp] theorem State.setIndex_faultPc (s : State) (w : Word) :
    (s.setIndex w).faultPc = s.faultPc := rfl
@[simp] theorem State.setIndex_faultOp (s : State) (w : Word) :
    (s.setIndex w).faultOp = s.faultOp := rfl
@[simp] theorem State.setIndex_mem (s : State) (w : Word) :
    (s.setIndex w).mem = s.mem := rfl
@[simp] theorem State.setIndex_fb (s : State) (w : Word) :
    (s.setIndex w).fb = s.fb := rfl
@[simp] theorem State.setIndex_dirty (s : State) (w : Word) :
    (s.setIndex w).dirty = s.dirty := rfl
@[simp] theorem State.setIndex_keys (s : State) (w : Word) :
    (s.setIndex w).keys = s.keys := rfl
@[simp] theorem State.setIndex_cfg (s : State) (w : Word) :
    (s.setIndex w).cfg = s.cfg := rfl
@[simp] theorem State.setIndex_draws (s : State) (w : Word) :
    (s.setIndex w).draws = s.draws := rfl
@[simp] theorem State.setIndex_bootOpen (s : State) (w : Word) :
    (s.setIndex w).bootOpen = s.bootOpen := rfl

/-! ## writeByte -/

@[simp] theorem State.writeByte_v (s : State) (a : Nat) (b : Byte) :
    (s.writeByte a b).v = s.v := rfl
@[simp] theorem State.writeByte_pc (s : State) (a : Nat) (b : Byte) :
    (s.writeByte a b).pc = s.pc := rfl
@[simp] theorem State.writeByte_index (s : State) (a : Nat) (b : Byte) :
    (s.writeByte a b).index = s.index := rfl
@[simp] theorem State.writeByte_stack (s : State) (a : Nat) (b : Byte) :
    (s.writeByte a b).stack = s.stack := rfl
@[simp] theorem State.writeByte_sp (s : State) (a : Nat) (b : Byte) :
    (s.writeByte a b).sp = s.sp := rfl
@[simp] theorem State.writeByte_dt (s : State) (a : Nat) (b : Byte) :
    (s.writeByte a b).dt = s.dt := rfl
@[simp] theorem State.writeByte_st (s : State) (a : Nat) (b : Byte) :
    (s.writeByte a b).st = s.st := rfl
@[simp] theorem State.writeByte_status (s : State) (a : Nat) (b : Byte) :
    (s.writeByte a b).status = s.status := rfl
@[simp] theorem State.writeByte_faultPc (s : State) (a : Nat) (b : Byte) :
    (s.writeByte a b).faultPc = s.faultPc := rfl
@[simp] theorem State.writeByte_faultOp (s : State) (a : Nat) (b : Byte) :
    (s.writeByte a b).faultOp = s.faultOp := rfl
@[simp] theorem State.writeByte_mem (s : State) (a : Nat) (b : Byte) :
    (s.writeByte a b).mem = Memory.write s.cfg s.mem (a % memSize) b := rfl
@[simp] theorem State.writeByte_fb (s : State) (a : Nat) (b : Byte) :
    (s.writeByte a b).fb = s.fb := rfl
@[simp] theorem State.writeByte_dirty (s : State) (a : Nat) (b : Byte) :
    (s.writeByte a b).dirty = s.dirty := rfl
@[simp] theorem State.writeByte_keys (s : State) (a : Nat) (b : Byte) :
    (s.writeByte a b).keys = s.keys := rfl
@[simp] theorem State.writeByte_cfg (s : State) (a : Nat) (b : Byte) :
    (s.writeByte a b).cfg = s.cfg := rfl
@[simp] theorem State.writeByte_draws (s : State) (a : Nat) (b : Byte) :
    (s.writeByte a b).draws = s.draws := rfl
@[simp] theorem State.writeByte_bootOpen (s : State) (a : Nat) (b : Byte) :
    (s.writeByte a b).bootOpen = s.bootOpen := rfl

/-! ## push -/

@[simp] theorem State.push_v (s : State) (w : Word) (h : s.sp.val < 16) :
    (s.push w h).v = s.v := rfl
@[simp] theorem State.push_pc (s : State) (w : Word) (h : s.sp.val < 16) :
    (s.push w h).pc = s.pc := rfl
@[simp] theorem State.push_index (s : State) (w : Word) (h : s.sp.val < 16) :
    (s.push w h).index = s.index := rfl
@[simp] theorem State.push_stack (s : State) (w : Word) (h : s.sp.val < 16) :
    (s.push w h).stack = s.stack.set s.sp.val w h := rfl
@[simp] theorem State.push_sp (s : State) (w : Word) (h : s.sp.val < 16) :
    (s.push w h).sp = ⟨s.sp.val + 1, by omega⟩ := rfl
@[simp] theorem State.push_dt (s : State) (w : Word) (h : s.sp.val < 16) :
    (s.push w h).dt = s.dt := rfl
@[simp] theorem State.push_st (s : State) (w : Word) (h : s.sp.val < 16) :
    (s.push w h).st = s.st := rfl
@[simp] theorem State.push_status (s : State) (w : Word) (h : s.sp.val < 16) :
    (s.push w h).status = s.status := rfl
@[simp] theorem State.push_faultPc (s : State) (w : Word) (h : s.sp.val < 16) :
    (s.push w h).faultPc = s.faultPc := rfl
@[simp] theorem State.push_faultOp (s : State) (w : Word) (h : s.sp.val < 16) :
    (s.push w h).faultOp = s.faultOp := rfl
@[simp] theorem State.push_mem (s : State) (w : Word) (h : s.sp.val < 16) :
    (s.push w h).mem = s.mem := rfl
@[simp] theorem State.push_fb (s : State) (w : Word) (h : s.sp.val < 16) :
    (s.push w h).fb = s.fb := rfl
@[simp] theorem State.push_dirty (s : State) (w : Word) (h : s.sp.val < 16) :
    (s.push w h).dirty = s.dirty := rfl
@[simp] theorem State.push_keys (s : State) (w : Word) (h : s.sp.val < 16) :
    (s.push w h).keys = s.keys := rfl
@[simp] theorem State.push_cfg (s : State) (w : Word) (h : s.sp.val < 16) :
    (s.push w h).cfg = s.cfg := rfl
@[simp] theorem State.push_draws (s : State) (w : Word) (h : s.sp.val < 16) :
    (s.push w h).draws = s.draws := rfl
@[simp] theorem State.push_bootOpen (s : State) (w : Word) (h : s.sp.val < 16) :
    (s.push w h).bootOpen = s.bootOpen := rfl

/-! ## pop -/

@[simp] theorem State.pop_v (s : State) :
    s.pop.v = s.v := rfl
@[simp] theorem State.pop_pc (s : State) :
    s.pop.pc = s.pc := rfl
@[simp] theorem State.pop_index (s : State) :
    s.pop.index = s.index := rfl
@[simp] theorem State.pop_stack (s : State) :
    s.pop.stack = s.stack := rfl
@[simp] theorem State.pop_sp (s : State) :
    s.pop.sp = ⟨s.sp.val - 1, by omega⟩ := rfl
@[simp] theorem State.pop_dt (s : State) :
    s.pop.dt = s.dt := rfl
@[simp] theorem State.pop_st (s : State) :
    s.pop.st = s.st := rfl
@[simp] theorem State.pop_status (s : State) :
    s.pop.status = s.status := rfl
@[simp] theorem State.pop_faultPc (s : State) :
    s.pop.faultPc = s.faultPc := rfl
@[simp] theorem State.pop_faultOp (s : State) :
    s.pop.faultOp = s.faultOp := rfl
@[simp] theorem State.pop_mem (s : State) :
    s.pop.mem = s.mem := rfl
@[simp] theorem State.pop_fb (s : State) :
    s.pop.fb = s.fb := rfl
@[simp] theorem State.pop_dirty (s : State) :
    s.pop.dirty = s.dirty := rfl
@[simp] theorem State.pop_keys (s : State) :
    s.pop.keys = s.keys := rfl
@[simp] theorem State.pop_cfg (s : State) :
    s.pop.cfg = s.cfg := rfl
@[simp] theorem State.pop_draws (s : State) :
    s.pop.draws = s.draws := rfl
@[simp] theorem State.pop_bootOpen (s : State) :
    s.pop.bootOpen = s.bootOpen := rfl

/-! ## raiseFatal -/

@[simp] theorem State.raiseFatal_v (s : State) (c : Status) (op : Word) :
    (s.raiseFatal c op).v = s.v := rfl
@[simp] theorem State.raiseFatal_pc (s : State) (c : Status) (op : Word) :
    (s.raiseFatal c op).pc = s.pc := rfl
@[simp] theorem State.raiseFatal_index (s : State) (c : Status) (op : Word) :
    (s.raiseFatal c op).index = s.index := rfl
@[simp] theorem State.raiseFatal_stack (s : State) (c : Status) (op : Word) :
    (s.raiseFatal c op).stack = s.stack := rfl
@[simp] theorem State.raiseFatal_sp (s : State) (c : Status) (op : Word) :
    (s.raiseFatal c op).sp = s.sp := rfl
@[simp] theorem State.raiseFatal_dt (s : State) (c : Status) (op : Word) :
    (s.raiseFatal c op).dt = s.dt := rfl
@[simp] theorem State.raiseFatal_st (s : State) (c : Status) (op : Word) :
    (s.raiseFatal c op).st = s.st := rfl
@[simp] theorem State.raiseFatal_status (s : State) (c : Status) (op : Word) :
    (s.raiseFatal c op).status = c := rfl
@[simp] theorem State.raiseFatal_faultPc (s : State) (c : Status) (op : Word) :
    (s.raiseFatal c op).faultPc = s.pc - 2 := rfl
@[simp] theorem State.raiseFatal_faultOp (s : State) (c : Status) (op : Word) :
    (s.raiseFatal c op).faultOp = op := rfl
@[simp] theorem State.raiseFatal_mem (s : State) (c : Status) (op : Word) :
    (s.raiseFatal c op).mem = s.mem := rfl
@[simp] theorem State.raiseFatal_fb (s : State) (c : Status) (op : Word) :
    (s.raiseFatal c op).fb = s.fb := rfl
@[simp] theorem State.raiseFatal_dirty (s : State) (c : Status) (op : Word) :
    (s.raiseFatal c op).dirty = s.dirty := rfl
@[simp] theorem State.raiseFatal_keys (s : State) (c : Status) (op : Word) :
    (s.raiseFatal c op).keys = s.keys := rfl
@[simp] theorem State.raiseFatal_cfg (s : State) (c : Status) (op : Word) :
    (s.raiseFatal c op).cfg = s.cfg := rfl
@[simp] theorem State.raiseFatal_draws (s : State) (c : Status) (op : Word) :
    (s.raiseFatal c op).draws = s.draws := rfl
@[simp] theorem State.raiseFatal_bootOpen (s : State) (c : Status) (op : Word) :
    (s.raiseFatal c op).bootOpen = s.bootOpen := rfl

/-! ## afterFetch -/

@[simp] theorem State.afterFetch_v (s : State) :
    s.afterFetch.v = s.v := rfl
@[simp] theorem State.afterFetch_pc (s : State) :
    s.afterFetch.pc = s.pc + 2 := rfl
@[simp] theorem State.afterFetch_index (s : State) :
    s.afterFetch.index = s.index := rfl
@[simp] theorem State.afterFetch_stack (s : State) :
    s.afterFetch.stack = s.stack := rfl
@[simp] theorem State.afterFetch_sp (s : State) :
    s.afterFetch.sp = s.sp := rfl
@[simp] theorem State.afterFetch_dt (s : State) :
    s.afterFetch.dt = s.dt := rfl
@[simp] theorem State.afterFetch_st (s : State) :
    s.afterFetch.st = s.st := rfl
@[simp] theorem State.afterFetch_status (s : State) :
    s.afterFetch.status = s.status := rfl
@[simp] theorem State.afterFetch_faultPc (s : State) :
    s.afterFetch.faultPc = s.faultPc := rfl
@[simp] theorem State.afterFetch_faultOp (s : State) :
    s.afterFetch.faultOp = s.faultOp := rfl
@[simp] theorem State.afterFetch_mem (s : State) :
    s.afterFetch.mem = s.mem := rfl
@[simp] theorem State.afterFetch_fb (s : State) :
    s.afterFetch.fb = s.fb := rfl
@[simp] theorem State.afterFetch_dirty (s : State) :
    s.afterFetch.dirty = s.dirty := rfl
@[simp] theorem State.afterFetch_keys (s : State) :
    s.afterFetch.keys = s.keys := rfl
@[simp] theorem State.afterFetch_cfg (s : State) :
    s.afterFetch.cfg = s.cfg := rfl
@[simp] theorem State.afterFetch_draws (s : State) :
    s.afterFetch.draws = s.draws := rfl
@[simp] theorem State.afterFetch_bootOpen (s : State) :
    s.afterFetch.bootOpen = false := rfl

/-! ## timerTick -/

@[simp] theorem State.timerTick_v (s : State) :
    s.timerTick.v = s.v := rfl
@[simp] theorem State.timerTick_pc (s : State) :
    s.timerTick.pc = s.pc := rfl
@[simp] theorem State.timerTick_index (s : State) :
    s.timerTick.index = s.index := rfl
@[simp] theorem State.timerTick_stack (s : State) :
    s.timerTick.stack = s.stack := rfl
@[simp] theorem State.timerTick_sp (s : State) :
    s.timerTick.sp = s.sp := rfl
@[simp] theorem State.timerTick_dt (s : State) :
    s.timerTick.dt = countDown s.dt := rfl
@[simp] theorem State.timerTick_st (s : State) :
    s.timerTick.st = countDown s.st := rfl
@[simp] theorem State.timerTick_status (s : State) :
    s.timerTick.status = s.status := rfl
@[simp] theorem State.timerTick_faultPc (s : State) :
    s.timerTick.faultPc = s.faultPc := rfl
@[simp] theorem State.timerTick_faultOp (s : State) :
    s.timerTick.faultOp = s.faultOp := rfl
@[simp] theorem State.timerTick_mem (s : State) :
    s.timerTick.mem = s.mem := rfl
@[simp] theorem State.timerTick_fb (s : State) :
    s.timerTick.fb = s.fb := rfl
@[simp] theorem State.timerTick_dirty (s : State) :
    s.timerTick.dirty = s.dirty := rfl
@[simp] theorem State.timerTick_keys (s : State) :
    s.timerTick.keys = s.keys := rfl
@[simp] theorem State.timerTick_cfg (s : State) :
    s.timerTick.cfg = s.cfg := rfl
@[simp] theorem State.timerTick_draws (s : State) :
    s.timerTick.draws = s.draws := rfl
@[simp] theorem State.timerTick_bootOpen (s : State) :
    s.timerTick.bootOpen = s.bootOpen := rfl

/-! ## setKey -/

@[simp] theorem State.setKey_v (s : State) (k : Fin 16) (d : Bool) :
    (s.setKey k d).v = s.v := rfl
@[simp] theorem State.setKey_pc (s : State) (k : Fin 16) (d : Bool) :
    (s.setKey k d).pc = s.pc := rfl
@[simp] theorem State.setKey_index (s : State) (k : Fin 16) (d : Bool) :
    (s.setKey k d).index = s.index := rfl
@[simp] theorem State.setKey_stack (s : State) (k : Fin 16) (d : Bool) :
    (s.setKey k d).stack = s.stack := rfl
@[simp] theorem State.setKey_sp (s : State) (k : Fin 16) (d : Bool) :
    (s.setKey k d).sp = s.sp := rfl
@[simp] theorem State.setKey_dt (s : State) (k : Fin 16) (d : Bool) :
    (s.setKey k d).dt = s.dt := rfl
@[simp] theorem State.setKey_st (s : State) (k : Fin 16) (d : Bool) :
    (s.setKey k d).st = s.st := rfl
@[simp] theorem State.setKey_status (s : State) (k : Fin 16) (d : Bool) :
    (s.setKey k d).status = s.status := rfl
@[simp] theorem State.setKey_faultPc (s : State) (k : Fin 16) (d : Bool) :
    (s.setKey k d).faultPc = s.faultPc := rfl
@[simp] theorem State.setKey_faultOp (s : State) (k : Fin 16) (d : Bool) :
    (s.setKey k d).faultOp = s.faultOp := rfl
@[simp] theorem State.setKey_mem (s : State) (k : Fin 16) (d : Bool) :
    (s.setKey k d).mem = s.mem := rfl
@[simp] theorem State.setKey_fb (s : State) (k : Fin 16) (d : Bool) :
    (s.setKey k d).fb = s.fb := rfl
@[simp] theorem State.setKey_dirty (s : State) (k : Fin 16) (d : Bool) :
    (s.setKey k d).dirty = s.dirty := rfl
@[simp] theorem State.setKey_keys (s : State) (k : Fin 16) (d : Bool) :
    (s.setKey k d).keys = s.keys.set k.val d k.isLt := rfl
@[simp] theorem State.setKey_cfg (s : State) (k : Fin 16) (d : Bool) :
    (s.setKey k d).cfg = s.cfg := rfl
@[simp] theorem State.setKey_draws (s : State) (k : Fin 16) (d : Bool) :
    (s.setKey k d).draws = s.draws := rfl
@[simp] theorem State.setKey_bootOpen (s : State) (k : Fin 16) (d : Bool) :
    (s.setKey k d).bootOpen = s.bootOpen := rfl

/-! ## clearDirty -/

@[simp] theorem State.clearDirty_v (s : State) :
    s.clearDirty.v = s.v := rfl
@[simp] theorem State.clearDirty_pc (s : State) :
    s.clearDirty.pc = s.pc := rfl
@[simp] theorem State.clearDirty_index (s : State) :
    s.clearDirty.index = s.index := rfl
@[simp] theorem State.clearDirty_stack (s : State) :
    s.clearDirty.stack = s.stack := rfl
@[simp] theorem State.clearDirty_sp (s : State) :
    s.clearDirty.sp = s.sp := rfl
@[simp] theorem State.clearDirty_dt (s : State) :
    s.clearDirty.dt = s.dt := rfl
@[simp] theorem State.clearDirty_st (s : State) :
    s.clearDirty.st = s.st := rfl
@[simp] theorem State.clearDirty_status (s : State) :
    s.clearDirty.status = s.status := rfl
@[simp] theorem State.clearDirty_faultPc (s : State) :
    s.clearDirty.faultPc = s.faultPc := rfl
@[simp] theorem State.clearDirty_faultOp (s : State) :
    s.clearDirty.faultOp = s.faultOp := rfl
@[simp] theorem State.clearDirty_mem (s : State) :
    s.clearDirty.mem = s.mem := rfl
@[simp] theorem State.clearDirty_fb (s : State) :
    s.clearDirty.fb = s.fb := rfl
@[simp] theorem State.clearDirty_dirty (s : State) :
    s.clearDirty.dirty = false := rfl
@[simp] theorem State.clearDirty_keys (s : State) :
    s.clearDirty.keys = s.keys := rfl
@[simp] theorem State.clearDirty_cfg (s : State) :
    s.clearDirty.cfg = s.cfg := rfl
@[simp] theorem State.clearDirty_draws (s : State) :
    s.clearDirty.draws = s.draws := rfl
@[simp] theorem State.clearDirty_bootOpen (s : State) :
    s.clearDirty.bootOpen = s.bootOpen := rfl
/-! ## Updates made of several -/

/-- Writing bytes changes nothing but memory. -/
theorem State.writeBytes_frame (bytes : List Byte) :
    ∀ (s : State) (a : Nat), s.writeBytes a bytes = { s with mem := (s.writeBytes a bytes).mem } := by
  induction bytes with
  | nil => intro s a; rfl
  | cons b rest ih =>
    intro s a
    have h := ih (s.writeByte a b) (a + 1)
    simp only [State.writeBytes]
    rw [h]; rfl

/-- A bulk store changes nothing but memory. -/
theorem State.storeRegs_frame (s : State) (a n : Nat) :
    s.storeRegs a n = { s with mem := (s.storeRegs a n).mem } := by
  induction n with
  | zero => rfl
  | succ n ih => simp only [State.storeRegs]; rw [ih]; rfl

/-- A bulk load changes nothing but the registers. -/
theorem State.loadRegs_frame (s : State) (a n : Nat) :
    s.loadRegs a n = { s with v := (s.loadRegs a n).v } := by
  induction n with
  | zero => rfl
  | succ n ih => simp only [State.loadRegs]; rw [ih]; rfl

/-- The two writes of a flag-writing kind change nothing but the registers. -/
theorem State.writeFlagAndResult_frame (s : State) (x : Nibble) (f : Bool) (r : Byte) :
    s.writeFlagAndResult x f r = { s with v := (s.writeFlagAndResult x f r).v } := by
  unfold State.writeFlagAndResult; split <;> rfl

/-- A skip changes nothing but PC, by 2 or not at all. -/
theorem State.skipIf_eq (s : State) (c : Bool) :
    s.skipIf c = { s with pc := if c then s.pc + 2 else s.pc } := by
  unfold State.skipIf; split <;> simp_all [State.setPc]

end Sys2Proof.Machine
end

