-- ==== Sys2Proof/Laws/Memory.lean ====
section
/-!
SUPPORT. The laws of memory: a read after a write, and the canonical form every operation keeps.
-/

namespace Sys2Proof.Machine

/-! ## The list of cells -/

theorem Memory.find_insert (a b : Nat) (x : Byte) (m : List Host.Cell) :
    Memory.find b (Memory.insert a x m) = if b = a then some x else Memory.find b m := by
  induction m with
  | nil => simp only [Memory.insert, Memory.find, eq_comm]
  | cons cell rest ih =>
    obtain ⟨k, y⟩ := cell
    simp only [Memory.insert]
    split
    · by_cases h : b = a
      · subst h; simp [Memory.find]
      · simp [Memory.find, h, Ne.symm h]
    · split
      · rename_i h; subst h
        by_cases h : b = k
        · subst h; simp [Memory.find]
        · simp [Memory.find, h, Ne.symm h]
      · simp only [Memory.find, ih]
        by_cases h : k = b
        · subst h; simp; omega
        · simp [h]

theorem Memory.find_erase (a b : Nat) (m : List Host.Cell) :
    Memory.find b (Memory.erase a m) = if b = a then none else Memory.find b m := by
  induction m with
  | nil => simp [Memory.erase, Memory.find]
  | cons cell rest ih =>
    obtain ⟨k, y⟩ := cell
    have hcons : Memory.erase a ((k, y) :: rest) =
        if k = a then Memory.erase a rest else (k, y) :: Memory.erase a rest := by
      by_cases hk : k = a <;> simp [Memory.erase, hk]
    rw [hcons]
    by_cases hk : k = a
    · subst hk
      rw [if_pos rfl, ih]
      by_cases hb : b = k
      · simp [hb]
      · simp [Memory.find, hb, Ne.symm hb]
    · rw [if_neg hk]
      simp only [Memory.find, ih]
      by_cases hkb : k = b
      · subst hkb; simp [hk]
      · simp [hkb]

/-- The read law: a write gives its byte back and leaves every other address alone (R57). -/
theorem Memory.read_write (c : Config) (m : List Host.Cell) (a b : Nat) (x : Byte) :
    Memory.read c (Memory.write c m a x) b = if b = a then x else Memory.read c m b := by
  unfold Memory.read Memory.write
  split <;> rename_i h <;> by_cases hb : b = a <;>
    simp_all [Memory.find_erase, Memory.find_insert]

/-! ## The canonical form -/

theorem Memory.mem_insert {a : Nat} {x : Byte} {m : List Host.Cell} {cell : Host.Cell}
    (h : cell ∈ Memory.insert a x m) : cell = (a, x) ∨ cell ∈ m := by
  induction m with
  | nil => simpa [Memory.insert] using h
  | cons hd rest ih =>
    obtain ⟨k, y⟩ := hd
    simp only [Memory.insert] at h
    split at h
    · simpa using h
    · split at h <;> simp only [List.mem_cons] at h ⊢ <;> tauto

theorem Memory.insert_rising {a : Nat} {x : Byte} {m : List Host.Cell}
    (h : m.Pairwise (fun p q => p.1 < q.1)) :
    (Memory.insert a x m).Pairwise (fun p q => p.1 < q.1) := by
  induction m with
  | nil => simp [Memory.insert]
  | cons hd rest ih =>
    obtain ⟨k, y⟩ := hd
    have hr := List.pairwise_cons.1 h
    simp only [Memory.insert]
    split
    · rename_i hak
      refine List.pairwise_cons.2 ⟨?_, h⟩
      intro q hq
      rcases List.mem_cons.1 hq with rfl | hq
      · exact hak
      · exact lt_trans hak (hr.1 q hq)
    · split
      · rename_i hka; subst hka
        exact List.pairwise_cons.2 ⟨hr.1, hr.2⟩
      · refine List.pairwise_cons.2 ⟨?_, ih hr.2⟩
        intro q hq
        rcases Memory.mem_insert hq with rfl | hq
        · change k < a; omega
        · exact hr.1 q hq

/-- A write keeps the canonical form. -/
theorem Memory.write_wf {c : Config} {m : List Host.Cell} {a : Nat} {x : Byte}
    (ha : a < memSize) (h : Memory.wf c m) : Memory.wf c (Memory.write c m a x) := by
  unfold Memory.write
  split
  · refine ⟨h.1.filter _, ?_⟩
    intro cell hc
    exact h.2 cell (List.mem_filter.1 hc).1
  · rename_i hx
    refine ⟨Memory.insert_rising h.1, ?_⟩
    intro cell hc
    rcases Memory.mem_insert hc with rfl | hc
    · exact ⟨ha, hx⟩
    · exact h.2 cell hc

/-! ## Reads and writes of the state -/

/-- What a byte reads as after a byte was written (R52, R53, R57). -/
theorem State.readByte_writeByte (s : State) (a b : Nat) (x : Byte) :
    (s.writeByte a x).readByte b = if b % memSize = a % memSize then x else s.readByte b := by
  simp [State.readByte, Memory.read_write]

@[simp] theorem State.readByte_setReg (s : State) (i : Nibble) (b : Byte) (a : Nat) :
    (s.setReg i b).readByte a = s.readByte a := rfl
@[simp] theorem State.readByte_setPc (s : State) (w : Word) (a : Nat) :
    (s.setPc w).readByte a = s.readByte a := rfl
@[simp] theorem State.readByte_setIndex (s : State) (w : Word) (a : Nat) :
    (s.setIndex w).readByte a = s.readByte a := rfl
@[simp] theorem State.readByte_afterFetch (s : State) (a : Nat) :
    s.afterFetch.readByte a = s.readByte a := rfl

/-- Two states with one memory and one configuration read alike. -/
theorem State.readByte_congr {s t : State} (hm : t.mem = s.mem) (hc : t.cfg = s.cfg) (a : Nat) :
    t.readByte a = s.readByte a := by simp [State.readByte, hm, hc]

theorem State.writeByte_wf {s : State} (a : Nat) (x : Byte) (h : Memory.wf s.cfg s.mem) :
    Memory.wf (s.writeByte a x).cfg (s.writeByte a x).mem :=
  Memory.write_wf (Nat.mod_lt _ (by decide)) h

theorem State.writeBytes_wf (bytes : List Byte) : ∀ (s : State) (a : Nat),
    Memory.wf s.cfg s.mem → Memory.wf (s.writeBytes a bytes).cfg (s.writeBytes a bytes).mem := by
  induction bytes with
  | nil => intro s a h; exact h
  | cons b rest ih => intro s a h; exact ih _ _ (State.writeByte_wf a b h)

theorem State.storeRegs_wf (s : State) (a n : Nat) (h : Memory.wf s.cfg s.mem) :
    Memory.wf (s.storeRegs a n).cfg (s.storeRegs a n).mem := by
  induction n with
  | zero => exact h
  | succ n ih => exact State.writeByte_wf _ _ ih

/-- Memory at reset is canonical: it lists nothing. -/
theorem State.resetWith_wf (c : Config) : Memory.wf (State.resetWith c).cfg (State.resetWith c).mem :=
  ⟨List.Pairwise.nil, fun _ h => absurd h List.not_mem_nil⟩

end Sys2Proof.Machine
end

