-- ==== Sys2Proof/Laws/Ops.lean ====
section
/-!
SUPPORT. What each shared operation can do, said once: registers, flags, accesses, runs of bytes,
the key scan, a tick, pixels.
-/

namespace Sys2Proof.Machine

/-! ## Registers -/

/-- What a register reads as after a register was written (R20). -/
theorem State.reg_setReg (s : State) (i j : Nibble) (b : Byte) :
    (s.setReg i b).reg j = if j = i then b else s.reg j := by
  unfold State.reg State.setReg
  simp only [Vector.getElem_set]
  by_cases h : j = i
  · simp [h]
  · have : i.toNat ≠ j.toNat := fun e => h (BitVec.eq_of_toNat_eq e.symm)
    simp [h, this]

@[simp] theorem State.reg_setReg_same (s : State) (i : Nibble) (b : Byte) :
    (s.setReg i b).reg i = b := by simp [State.reg_setReg]

theorem State.reg_setReg_other (s : State) {i j : Nibble} (b : Byte) (h : j ≠ i) :
    (s.setReg i b).reg j = s.reg j := by simp [State.reg_setReg, h]

@[simp] theorem State.reg_setPc (s : State) (w : Word) (i : Nibble) :
    (s.setPc w).reg i = s.reg i := rfl
@[simp] theorem State.reg_setIndex (s : State) (w : Word) (i : Nibble) :
    (s.setIndex w).reg i = s.reg i := rfl
@[simp] theorem State.reg_writeByte (s : State) (a : Nat) (b : Byte) (i : Nibble) :
    (s.writeByte a b).reg i = s.reg i := rfl
@[simp] theorem State.reg_afterFetch (s : State) (i : Nibble) :
    s.afterFetch.reg i = s.reg i := rfl

/-- Two states with the same registers read alike. -/
theorem State.reg_congr {s t : State} (h : t.v = s.v) (i : Nibble) : t.reg i = s.reg i := by
  simp [State.reg, h]

/-- A register write alone meets the frame of one register. -/
theorem onlyReg_setReg (s : State) (x : Nibble) (b : Byte) : onlyReg x s (s.setReg x b) :=
  ⟨rfl, fun _ h => State.reg_setReg_other s b h⟩

/-! ## Flags -/

theorem flagByte_toNat (f : Bool) : (flagByte f).toNat = if f then 1 else 0 := by cases f <;> rfl

/-- The two writes of a flag-writing kind, in numbers (R111). -/
theorem State.writeFlagAndResult_wrote (s : State) (x : Nibble) (f : Bool) (r : Byte) :
    wroteFlagAndResult x (if f then 1 else 0) r.toNat s (s.writeFlagAndResult x f r) := by
  refine ⟨State.writeFlagAndResult_frame s x f r, ?_, ?_, ?_, ?_⟩
  · intro hx
    have h1 : ¬ x = 15#4 := hx
    have h2 : ¬ 15#4 = x := fun e => hx e.symm
    unfold State.writeFlagAndResult
    split <;> simp [State.reg_setReg, h1, h2, flagByte_toNat]
  · rintro rfl h; simp [State.writeFlagAndResult, h]
  · rintro rfl h; simp [State.writeFlagAndResult, h, flagByte_toNat]
  · intro q hx h15
    have h1 : ¬ q = 15#4 := h15
    unfold State.writeFlagAndResult
    split <;> simp [State.reg_setReg, hx, h1]

/-! ## Accesses -/

/-- When an access has a meaning (R6, R52, R53). -/
theorem State.canAccess_iff (s : State) (a n : Nat) :
    s.canAccess a n = true ↔ (s.cfg.oorPolicy = .fault → n = 0 ∨ a + n ≤ memSize) := by
  unfold State.canAccess
  split <;> simp_all

theorem State.canAccess_wrap {s : State} (h : s.cfg.oorPolicy = .wrap) (a n : Nat) :
    s.canAccess a n = true := by simp [State.canAccess, h]

/-- A state's accesses depend on its configuration alone. -/
theorem State.canAccess_congr {s t : State} (h : t.cfg = s.cfg) (a n : Nat) :
    t.canAccess a n = s.canAccess a n := by simp [State.canAccess, h]

/-! ## Runs of bytes (R166 to R168) -/

/-- What bytes read as after some bytes were stored, at most the whole memory. -/
theorem State.writeBytes_read (l : List Byte) : ∀ (s : State) (a : Nat), l.length ≤ memSize →
    (∀ k (h : k < l.length), (s.writeBytes a l).readByte (a + k) = l[k]) ∧
    ∀ b, (∀ k < l.length, b % memSize ≠ (a + k) % memSize) →
      (s.writeBytes a l).readByte b = s.readByte b := by
  induction l with
  | nil => intro s a _; simp [State.writeBytes]
  | cons x l ih =>
    intro s a hn
    simp only [List.length_cons] at hn
    obtain ⟨ih1, ih2⟩ := ih (s.writeByte a x) (a + 1) (by omega)
    constructor
    · rintro (_ | k) hk
      · simp only [State.writeBytes]
        rw [ih2 (a + 0) (by intro k hk; simp only [memSize] at hn ⊢; omega), State.readByte_writeByte]
        simp
      · have := ih1 k (by simpa using hk)
        simp only [State.writeBytes]
        rw [show a + (k + 1) = a + 1 + k by omega, this]; simp
    · intro b hb
      have h0 : ¬ b % memSize = a % memSize := by simpa using hb 0 (by simp)
      simp only [State.writeBytes]
      rw [ih2 b (fun k hk => by
        have := hb (k + 1) (by simpa using hk)
        rwa [show a + (k + 1) = a + 1 + k by omega] at this), State.readByte_writeByte, if_neg h0]

/-- What bytes read as after `V[0]` to `V[n-1]` were stored. -/
theorem State.storeRegs_read (s : State) (a n : Nat) (hn : n ≤ 16) :
    (∀ k < n, (s.storeRegs a n).readByte (a + k) = s.reg (BitVec.ofNat 4 k)) ∧
    ∀ b, (∀ k < n, b % memSize ≠ (a + k) % memSize) →
      (s.storeRegs a n).readByte b = s.readByte b := by
  induction n with
  | zero => simp [State.storeRegs]
  | succ n ih =>
    obtain ⟨ih1, ih2⟩ := ih (by omega)
    simp only [State.storeRegs, State.readByte_writeByte]
    constructor
    · intro k hk
      by_cases e : k = n
      · simp [e]
      · rw [if_neg (by simp only [memSize]; omega)]; exact ih1 k (by omega)
    · intro b hb
      rw [if_neg (hb n (by omega))]
      exact ih2 b (fun k hk => hb k (by omega))

/-- What a register holds after `V[0]` to `V[n-1]` were loaded. -/
theorem State.loadRegs_reg (s : State) (a n : Nat) (hn : n ≤ 16) (k : Nibble) :
    (s.loadRegs a n).reg k = if k.toNat < n then s.readByte (a + k.toNat) else s.reg k := by
  induction n with
  | zero => rfl
  | succ n ih =>
    simp only [State.loadRegs, State.reg_setReg, ih (by omega)]
    by_cases e : k = BitVec.ofNat 4 n
    · have : k.toNat = n := by rw [e]; simp; omega
      rw [if_pos e, if_pos (by omega), this]
    · have : k.toNat ≠ n := fun h => e (by rw [← h]; simp)
      rw [if_neg e]; congr 1; apply propext; omega

/-! ## The key scan (R153) -/

/-- The scan finds a key exactly when one in its range is pressed. -/
theorem State.firstPressed_isSome (s : State) : s.firstPressed.isSome = true ↔ s.keyInRange := by
  have top : lastScannedKey s.cfg.waitKeyLast ≤ 15 := by cases s.cfg.waitKeyLast <;> decide
  unfold State.firstPressed
  rw [List.find?_isSome]
  constructor
  · rintro ⟨k, hk, hp⟩
    have hk := List.mem_range.1 hk
    have e : k % 16 = k := by omega
    refine ⟨⟨k, by omega⟩, by simp; omega, ?_⟩
    simpa [State.key, e] using hp
  · rintro ⟨k, hk, hp⟩
    refine ⟨k.val, List.mem_range.2 (by omega), ?_⟩
    simpa [State.key] using hp

/-! ## One tick (R70, R195) -/

/-- All a step that answers a next state can have done. -/
theorem step_next {s t : State} (h : step s = .next t) :
    (s.status ≠ .run ∧ t = s) ∨
    (s.status = .run ∧ s.canFetch = true ∧ exec (decode s.fetchWord) s.afterFetch = .next t) := by
  unfold step at h
  split at h
  · rename_i hr
    split at h
    · rename_i hc; exact .inr ⟨hr, hc, h⟩
    · cases h
  · rename_i hr; exact .inl ⟨hr, (Host.Outcome.next.inj h).symm⟩

/-! ## Pixels -/

/-- What a pixel is after a pixel was toggled (R32, R142). -/
theorem pixelAt_togglePixel (fb : FrameBuffer) (px py qx qy : Nat) :
    pixelAt (togglePixel fb px py) qx qy =
      (pixelAt fb qx qy ^^ decide (qx = px ∧ qy = py ∧ px < 64 ∧ py < 32)) := by
  unfold togglePixel
  split
  · rename_i h
    unfold pixelAt
    by_cases hq : qx < 64 ∧ qy < 32
    · by_cases hy : qy = py
      · subst hy
        by_cases hx : qx = px
        · subst hx; simp [h]
        · simp [hq, hx, Ne.symm hx]
      · simp [hq, hy, Ne.symm hy]
    · have : ¬ (qx = px ∧ qy = py) := by rintro ⟨rfl, rfl⟩; exact hq h
      simp [hq]; intro h1 h2; exact absurd ⟨h1, h2⟩ this
  · rename_i h
    have : ¬ (qx = px ∧ qy = py ∧ px < 64 ∧ py < 32) := fun e => h e.2.2
    simp [this]

theorem pixelAt_blankScreen (px py : Nat) : pixelAt blankScreen px py = false := by
  unfold pixelAt blankScreen; split <;> simp

/-- Two framebuffers are equal when every pixel on the screen is. -/
theorem frameBuffer_ext {f g : FrameBuffer}
    (h : ∀ px py, px < 64 → py < 32 → pixelAt f px py = pixelAt g px py) : f = g := by
  apply Vector.ext; intro py hy
  apply Vector.ext; intro px hx
  simpa [pixelAt, hx, hy] using h px py hx hy

end Sys2Proof.Machine
end

