-- ==== Sys2Proof/Laws/PerInstr.lean ====
section
/-!
SUPPORT. Statements per instruction. Family EncodesInFamily: the word of a well-formed instruction
has a top nibble its kind allows (R74, R75, R84).
-/

/-- The word of a well-formed instruction lies in a family of its kind (R75, R84). -/
def Sys2Proof.Laws.EncodesInFamily.Statement (i : Sys2Proof.Instr) : Prop :=
  i.wellFormed = true → Sys2Proof.famOf (Sys2Proof.encode i) ∈ i.kind.families

namespace Sys2Proof.Laws.EncodesInFamily

theorem cls (mid : Byte) : Statement (.cls mid) := by
  intro _; simp [encode, Instr.kind, Kind.families]

theorem ret (mid : Byte) : Statement (.ret mid) := by
  intro _; simp [encode, Instr.kind, Kind.families]

theorem jp (nnn : Addr) : Statement (.jp nnn) := by
  intro _; simp [encode, Instr.kind, Kind.families]

theorem call (nnn : Addr) : Statement (.call nnn) := by
  intro _; simp [encode, Instr.kind, Kind.families]

theorem seImm (x : Nibble) (kk : Byte) : Statement (.seImm x kk) := by
  intro _; simp [encode, Instr.kind, Kind.families]

theorem sneImm (x : Nibble) (kk : Byte) : Statement (.sneImm x kk) := by
  intro _; simp [encode, Instr.kind, Kind.families]

theorem seReg (x y n : Nibble) : Statement (.seReg x y n) := by
  intro _; simp [encode, Instr.kind, Kind.families]

theorem ldImm (x : Nibble) (kk : Byte) : Statement (.ldImm x kk) := by
  intro _; simp [encode, Instr.kind, Kind.families]

theorem addImm (x : Nibble) (kk : Byte) : Statement (.addImm x kk) := by
  intro _; simp [encode, Instr.kind, Kind.families]

theorem ldReg (x y : Nibble) : Statement (.ldReg x y) := by
  intro _; simp [encode, Instr.kind, Kind.families]

theorem or (x y : Nibble) : Statement (.or x y) := by
  intro _; simp [encode, Instr.kind, Kind.families]

theorem and (x y : Nibble) : Statement (.and x y) := by
  intro _; simp [encode, Instr.kind, Kind.families]

theorem xor (x y : Nibble) : Statement (.xor x y) := by
  intro _; simp [encode, Instr.kind, Kind.families]

theorem addReg (x y : Nibble) : Statement (.addReg x y) := by
  intro _; simp [encode, Instr.kind, Kind.families]

theorem sub (x y : Nibble) : Statement (.sub x y) := by
  intro _; simp [encode, Instr.kind, Kind.families]

theorem shr (x y : Nibble) : Statement (.shr x y) := by
  intro _; simp [encode, Instr.kind, Kind.families]

theorem subn (x y : Nibble) : Statement (.subn x y) := by
  intro _; simp [encode, Instr.kind, Kind.families]

theorem shl (x y : Nibble) : Statement (.shl x y) := by
  intro _; simp [encode, Instr.kind, Kind.families]

theorem sneReg (x y n : Nibble) : Statement (.sneReg x y n) := by
  intro _; simp [encode, Instr.kind, Kind.families]

theorem ldI (nnn : Addr) : Statement (.ldI nnn) := by
  intro _; simp [encode, Instr.kind, Kind.families]

theorem jpV0 (nnn : Addr) : Statement (.jpV0 nnn) := by
  intro _; simp [encode, Instr.kind, Kind.families]

theorem rnd (x : Nibble) (kk : Byte) : Statement (.rnd x kk) := by
  intro _; simp [encode, Instr.kind, Kind.families]

theorem drw (x y n : Nibble) : Statement (.drw x y n) := by
  intro _; simp [encode, Instr.kind, Kind.families]

theorem skp (x : Nibble) : Statement (.skp x) := by
  intro _; simp [encode, Instr.kind, Kind.families]

theorem sknp (x : Nibble) : Statement (.sknp x) := by
  intro _; simp [encode, Instr.kind, Kind.families]

theorem ldVxDt (x : Nibble) : Statement (.ldVxDt x) := by
  intro _; simp [encode, Instr.kind, Kind.families]

theorem ldVxK (x : Nibble) : Statement (.ldVxK x) := by
  intro _; simp [encode, Instr.kind, Kind.families]

theorem ldDtVx (x : Nibble) : Statement (.ldDtVx x) := by
  intro _; simp [encode, Instr.kind, Kind.families]

theorem ldStVx (x : Nibble) : Statement (.ldStVx x) := by
  intro _; simp [encode, Instr.kind, Kind.families]

theorem addI (x : Nibble) : Statement (.addI x) := by
  intro _; simp [encode, Instr.kind, Kind.families]

theorem ldF (x : Nibble) : Statement (.ldF x) := by
  intro _; simp [encode, Instr.kind, Kind.families]

theorem ldB (x : Nibble) : Statement (.ldB x) := by
  intro _; simp [encode, Instr.kind, Kind.families]

theorem ldMemVx (x : Nibble) : Statement (.ldMemVx x) := by
  intro _; simp [encode, Instr.kind, Kind.families]

theorem ldVxMem (x : Nibble) : Statement (.ldVxMem x) := by
  intro _; simp [encode, Instr.kind, Kind.families]

theorem nop (op : Word) : Statement (.nop op) := by
  intro h
  simp only [Instr.wellFormed, inFallbackSpace] at h
  simp only [encode, Instr.kind, Kind.families, famOf]
  split_ifs at h <;> simp_all

end Sys2Proof.Laws.EncodesInFamily
end

