-- ==== Sys2Proof/Tests/Slice0.lean ====
section
/-!
SUPPORT. The model's own tests. Every expected result is a row of spec/95_test_vectors.md, whose
section is named at the head of each group; the witnesses at the end meet the hypotheses of the
statements.
-/

namespace Sys2Proof.Tests

open Sys2Proof Sys2Proof.Machine

/-! ## Well-formed terms (30_encoding.md R84) -/

/-- A NOP that carries a word of another row is refused: CLS, RET, ADD_REG, SKP, LD_VX_MEM, JP. -/
theorem test_wellFormed_refuses_matched_words :
    [Instr.nop 0x00E0, .nop 0x00EE, .nop 0x8014, .nop 0xE19E, .nop 0xF165, .nop 0x1234].map
      Instr.wellFormed = [false, false, false, false, false, false] := by decide

theorem test_wellFormed_accepts_fallback_words :
    [Instr.nop 0x0001, .nop 0x8008, .nop 0x812F, .nop 0xE000, .nop 0xF130, .nop 0xFFFF].map
      Instr.wellFormed = [true, true, true, true, true, true] := by decide

/-! ## Decode: the words of 2.1 -/

theorem test_decode_family0 :
    [0x00E0, 0x0000, 0x0120, 0x00EE, 0x000E, 0x0FFE, 0x0001, 0x00EF, 0x00FD].map decode =
      [.cls 0x0E, .cls 0x00, .cls 0x12, .ret 0x0E, .ret 0x00, .ret 0xFF, .nop 0x0001, .nop 0x00EF,
       .nop 0x00FD] := by decide

theorem test_decode_immediates :
    [0x1234, 0x2FFF, 0x3A7F, 0x4A7F, 0x6A2F, 0x7A2F, 0xA123, 0xB123, 0xC1F0].map decode =
      [.jp 0x234, .call 0xFFF, .seImm 0xA 0x7F, .sneImm 0xA 0x7F, .ldImm 0xA 0x2F, .addImm 0xA 0x2F,
       .ldI 0x123, .jpV0 0x123, .rnd 1 0xF0] := by decide

theorem test_decode_register_pairs :
    [0x5120, 0x5123, 0x512F, 0x9120, 0x9127, 0xD125, 0xD12A].map decode =
      [.seReg 1 2 0, .seReg 1 2 3, .seReg 1 2 0xF, .sneReg 1 2 0, .sneReg 1 2 7, .drw 1 2 5,
       .drw 1 2 0xA] := by decide

theorem test_decode_family8 :
    [0x8120, 0x8121, 0x8122, 0x8123, 0x8124, 0x8125, 0x8126, 0x8127, 0x812E, 0x8AB4].map decode =
      [.ldReg 1 2, .or 1 2, .and 1 2, .xor 1 2, .addReg 1 2, .sub 1 2, .shr 1 2, .subn 1 2, .shl 1 2,
       .addReg 0xA 0xB] := by decide

theorem test_decode_familyEF :
    [0xE19E, 0xE1A1, 0xF107, 0xF10A, 0xF115, 0xF118, 0xF11E, 0xF129, 0xF133, 0xF155, 0xF165].map
      decode = [.skp 1, .sknp 1, .ldVxDt 1, .ldVxK 1, .ldDtVx 1, .ldStVx 1, .addI 1, .ldF 1, .ldB 1,
       .ldMemVx 1, .ldVxMem 1] := by decide

theorem test_decode_fallback :
    [0x8128, 0x812D, 0x812F, 0xE000, 0xE19F, 0xE1A0, 0xF000, 0xF130, 0xF175, 0xF185].map decode =
      [.nop 0x8128, .nop 0x812D, .nop 0x812F, .nop 0xE000, .nop 0xE19F, .nop 0xE1A0, .nop 0xF000,
       .nop 0xF130, .nop 0xF175, .nop 0xF185] := by decide

/-- E11: the byte at the lower address is the high one; one byte holds no instruction. -/
theorem test_decode_bytes :
    decodeBytes [0x12, 0x34, 0x56] = .ok (.jp 0x234, [0x56]) ∧
      decodeBytes [0x12] = .error .truncated ∧ decodeTableWord 16 0x3A7F = some (.seImm 0xA 0x7F) := by
  refine ⟨rfl, rfl, rfl⟩

/-! ## One step on a small state -/

/-- The reset state with some registers set. -/
def start (regs : List (Nibble × Byte)) : State :=
  regs.foldl (fun s p => s.setReg p.1 p.2) State.reset

/-- `s` with other parameters. -/
def under (c : Config) (s : State) : State := { s with cfg := c }

/-- `VF_DEST_ORDER = result_then_flag`. -/
def flagLast : Config := { Config.default with vfDestOrder := .resultThenFlag }

/-- `WAITKEY_LAST = 0xF`. -/
def scanAll : Config := { Config.default with waitKeyLast := .corrected }

/-- `FONT_BASE = 0x050`. -/
def font50 : Config := { Config.default with fontBase := 0x50 }

/-- `OOR_POLICY = fault`. -/
def strict : Config := { Config.default with oorPolicy := .fault }

/-- Store the word at PC, tick once, look at the next state. -/
def after (op : Word) (s : State) (look : State → α) : Option α :=
  match step (s.placeWord op) with
  | .next t => some (look t)
  | .fault _ => none
  | .refused _ => none

/-- What a row of the tables shows: some registers, then PC. -/
def regsPc (rs : List Nibble) (t : State) : List Byte × Word := (rs.map t.reg, t.pc)

/-! ### 2.2 Arithmetic and logic -/

theorem test_ldImm : after 0x6F2A (start []) (regsPc [15]) = some ([0x2A], 0x202) := by decide

theorem test_addImm_wraps : after 0x7001 (start [(0, 0xFF)]) (regsPc [0, 15]) =
    some ([0x00, 0x00], 0x202) := by decide
theorem test_addImm_vf : after 0x7F01 (start [(15, 0xFF)]) (regsPc [15]) =
    some ([0x00], 0x202) := by decide

theorem test_ldReg : after 0x8210 (start [(1, 0x7C)]) (regsPc [2, 1]) =
    some ([0x7C, 0x7C], 0x202) := by decide

theorem test_or_keeps_vf : after 0x8011 (start [(0, 0x0F), (1, 0xF0), (15, 0x01)]) (regsPc [0, 15]) =
    some ([0xFF, 0x01], 0x202) := by decide
theorem test_and : after 0x8012 (start [(0, 0x3C), (1, 0x0F)]) (regsPc [0]) =
    some ([0x0C], 0x202) := by decide
theorem test_xor : after 0x8013 (start [(0, 0xFF), (1, 0x0F)]) (regsPc [0]) =
    some ([0xF0], 0x202) := by decide
theorem test_xor_self : after 0x8003 (start [(0, 0x5A)]) (regsPc [0]) =
    some ([0x00], 0x202) := by decide

theorem test_addReg_no_carry_at_255 : after 0x8014 (start [(0, 0xFE), (1, 0x01)]) (regsPc [0, 15]) =
    some ([0xFF, 0x00], 0x202) := by decide
theorem test_addReg_vf_both_orders :
    after 0x8F14 (start [(15, 0xF0), (1, 0x20)]) (regsPc [15]) = some ([0x10], 0x202) ∧
    after 0x8F14 (under flagLast (start [(15, 0xF0), (1, 0x20)])) (regsPc [15]) =
      some ([0x01], 0x202) ∧
    after 0x80F4 (start [(0, 0x10), (15, 0x01)]) (regsPc [0, 15]) = some ([0x11, 0x00], 0x202) := by
  decide

theorem test_sub_equal_operands : after 0x8015 (start [(0, 0x07), (1, 0x07)]) (regsPc [0, 15]) =
    some ([0x00, 0x00], 0x202) := by decide
theorem test_sub_borrow_and_vf :
    after 0x8015 (start [(0, 0x03), (1, 0x05)]) (regsPc [0, 15]) = some ([0xFE, 0x00], 0x202) ∧
    after 0x8F15 (start [(15, 0x09), (1, 0x04)]) (regsPc [15]) = some ([0x05], 0x202) ∧
    after 0x8F15 (under flagLast (start [(15, 0x09), (1, 0x04)])) (regsPc [15]) =
      some ([0x01], 0x202) := by decide

theorem test_subn : after 0x8017 (start [(0, 0x03), (1, 0x05)]) (regsPc [0, 15]) =
    some ([0x02, 0x01], 0x202) := by decide
theorem test_subn_borrow : after 0x8017 (start [(0, 0x05), (1, 0x03)]) (regsPc [0, 15]) =
    some ([0xFE, 0x00], 0x202) := by decide

theorem test_shr_ignores_vy : after 0x8016 (start [(0, 0x03), (1, 0xAA)]) (regsPc [0, 15, 1]) =
    some ([0x01, 0x01, 0xAA], 0x202) := by decide
theorem test_shr_logical_and_vf :
    after 0x8016 (start [(0, 0xFF)]) (regsPc [0, 15]) = some ([0x7F, 0x01], 0x202) ∧
    after 0x8F06 (start [(15, 0x07)]) (regsPc [15]) = some ([0x03], 0x202) ∧
    after 0x8F06 (under flagLast (start [(15, 0x07)])) (regsPc [15]) = some ([0x01], 0x202) := by
  decide

theorem test_shl_ignores_vy : after 0x821E (start [(2, 0x81), (1, 0x55)]) (regsPc [2, 15, 1]) =
    some ([0x02, 0x01, 0x55], 0x202) := by decide
theorem test_shl_no_carry_and_vf :
    after 0x801E (start [(0, 0x7F)]) (regsPc [0, 15]) = some ([0xFE, 0x00], 0x202) ∧
    after 0x8F0E (start [(15, 0xC1)]) (regsPc [15]) = some ([0x82], 0x202) ∧
    after 0x8F0E (under flagLast (start [(15, 0xC1)])) (regsPc [15]) = some ([0x01], 0x202) := by
  decide

/-- Mask 0: the result is 0 for every draw; a draw is taken. -/
theorem test_rnd_mask_zero (s : State) :
    exec (.rnd 3 0x00) s = .next { s.setReg 3 0x00 with draws := s.draws + 1 } := by
  simp [exec, execRnd]

/-! ### 2.3 Control transfer -/

theorem test_jp : after 0x1300 (start []) (·.pc) = some 0x300 := by decide
theorem test_jp_clears_high_bits : after 0x1FFF ((start []).setPc 0x1234) (·.pc) = some 0xFFF := by
  decide

theorem test_call_sixteenth :
    after 0x2300 { start [] with sp := 15 } (fun t => (t.stack[15], t.sp, t.pc)) =
      some (0x202, 16, 0x300) := by decide
theorem test_call_overflow :
    after 0x2300 { start [] with sp := 16 }
      (fun t => (t.status, t.faultPc, t.faultOp, t.pc, t.sp)) =
      some (.stackOverflow, 0x200, 0x2300, 0x202, 16) := by decide

theorem test_ret :
    after 0x0ABE { start [] with pc := 0x300, sp := 2, stack := (State.reset.stack.set 0 0x0111).set 1 0x1234 }
      (fun t => (t.sp, t.pc, t.stack[1])) = some (1, 0x1234, 0x1234) := by decide
theorem test_ret_underflow :
    after 0x00EE (start []) (fun t => (t.status, t.faultPc, t.faultOp, t.pc, t.sp)) =
      some (.stackUnderflow, 0x200, 0x00EE, 0x202, 0) := by decide

theorem test_jpV0_sixteen_bits : after 0xBFFF (start [(0, 0xFF)]) (·.pc) = some 0x10FE := by decide
theorem test_jpV0_always_v0 : after 0xB2F0 (start [(2, 0x55)]) (·.pc) = some 0x2F0 := by decide

theorem test_seImm : after 0x342A (start [(4, 0x2A)]) (·.pc) = some 0x204 ∧
    after 0x342B (start [(4, 0x2A)]) (·.pc) = some 0x202 := by decide
theorem test_seImm_pc_wraps : after 0x3000 ((start []).setPc 0xFFFE) (·.pc) = some 0x0002 := by
  decide
theorem test_sneImm : after 0x442A (start [(4, 0x2A)]) (·.pc) = some 0x202 ∧
    after 0x442B (start [(4, 0x2A)]) (·.pc) = some 0x204 := by decide
theorem test_seReg : after 0x512F (start [(1, 9), (2, 9)]) (·.pc) = some 0x204 ∧
    after 0x5120 (start [(1, 9), (2, 8)]) (·.pc) = some 0x202 := by decide
theorem test_sneReg : after 0x9120 (start [(1, 9), (2, 8)]) (·.pc) = some 0x204 ∧
    after 0x9337 (start [(3, 1)]) (·.pc) = some 0x202 := by decide

/-- The fetch wraps per byte at the top of memory; PC is not reduced. -/
theorem test_fetch_wraps_per_byte :
    after 0x6001 ((start []).setPc 0x0FFF) (regsPc [0]) = some ([0x01], 0x1001) := by decide

/-! ### 2.4 Display -/

/-- The reset state with a sprite byte at 0x300, I there, and some registers set. -/
def sprite (row : Byte) (regs : List (Nibble × Byte)) : State :=
  ((start regs).writeByte 0x300 row).setIndex 0x300

/-- The pixels that are on, of a few. -/
def lit (ps : List (Nat × Nat)) (t : State) : List Bool := ps.map (fun p => pixelAt t.fb p.1 p.2)

/-- Pixels of the reset screen turned on. -/
def withPixels (ps : List (Nat × Nat)) (s : State) : State :=
  { s with fb := ps.foldl (fun fb p => togglePixel fb p.1 p.2) s.fb }

theorem test_cls : after 0x00E0 (withPixels [(0, 0), (63, 31)] (start []))
    (fun t => (lit [(0, 0), (63, 31)] t, t.dirty, t.pc)) = some ([false, false], true, 0x202) := by
  decide
theorem test_cls_word_zero : after 0x0000 (start []) (fun t => (t.dirty, t.pc)) =
    some (true, 0x202) := by decide

theorem test_drw_origin_wraps_and_clips :
    after 0xD011 (sprite 0xFF [(0, 0xFF), (1, 0x21)])
      (fun t => (lit [(62, 1), (63, 1), (0, 1), (63, 0)] t, t.reg 15, t.dirty)) =
      some ([false, true, false, false], 0x00, true) := by decide
theorem test_drw_collision_and_bits :
    after 0xD011 (withPixels [(1, 0)] (sprite 0xC0 []))
      (fun t => (lit [(0, 0), (1, 0), (2, 0)] t, t.reg 15)) = some ([true, false, false], 0x01) ∧
    after 0xD011 (withPixels [(0, 0)] (sprite 0x0F [(0, 0x3C)]))
      (fun t => (lit [(0, 0), (60, 0)] t, t.reg 15)) = some ([true, false], 0x00) ∧
    after 0xDF01 (sprite 0x80 [(15, 0x05), (0, 0x02)])
      (fun t => (lit [(5, 2), (0, 2)] t, t.reg 15)) = some ([true, false], 0x00) := by decide

/-! ### 2.5 Keypad -/

/-- Press some keys. -/
def press (ks : List (Fin 16)) (s : State) : State := ks.foldl (fun s k => s.setKey k true) s

theorem test_skp : after 0xE29E (press [7] (start [(2, 0x07)])) (·.pc) = some 0x204 ∧
    after 0xE29E (start [(2, 0x07)]) (·.pc) = some 0x202 := by decide
theorem test_skp_low_nibble : after 0xE29E (press [10] (start [(2, 0x1A)])) (·.pc) = some 0x204 := by
  decide
theorem test_sknp : after 0xE2A1 (press [7] (start [(2, 0x07)])) (·.pc) = some 0x202 ∧
    after 0xE2A1 (start [(2, 0x07)]) (·.pc) = some 0x204 := by decide

theorem test_ldVxK_lowest_or_wait :
    after 0xF30A (press [3, 9] (start [])) (regsPc [3]) = some ([0x03], 0x202) ∧
    after 0xF30A (start [(3, 0x55)]) (regsPc [3]) = some ([0x55], 0x200) := by decide
theorem test_ldVxK_key_F :
    after 0xF30A (press [15] (start [])) (·.pc) = some 0x200 ∧
    after 0xF30A (under scanAll (press [15] (start []))) (regsPc [3]) = some ([0x0F], 0x202) ∧
    after 0xF30A (press [14] (start [])) (regsPc [3]) = some ([0x0E], 0x202) := by decide

/-! ### 2.6 Timers, index register, memory -/

theorem test_ldVxDt : after 0xF207 { start [] with dt := 0x2A } (regsPc [2]) =
    some ([0x2A], 0x202) := by decide
theorem test_ldDtVx : after 0xF115 (start [(1, 0x3C)]) (fun t => (t.dt, t.st)) =
    some (0x3C, 0x00) := by decide
theorem test_ldStVx : after 0xF118 (start [(1, 0x02)]) (fun t => (t.dt, t.st)) =
    some (0x00, 0x02) := by decide
theorem test_timerTick :
    (fun s : State => (s.timerTick.dt, s.timerTick.st)) { start [] with dt := 3, st := 0 } =
      (2, 0) := by decide

theorem test_ldI : after 0xAFFF ((start []).setIndex 0xFFFF) (·.index) = some 0x0FFF := by decide
theorem test_addI_no_flag : after 0xF41E ((start [(4, 0x01)]).setIndex 0x0FFF)
    (fun t => (t.index, t.reg 15)) = some (0x1000, 0x00) := by decide
theorem test_addI_wraps : after 0xF41E ((start [(4, 0xFF)]).setIndex 0xFF01) (·.index) =
    some 0x0000 := by decide
theorem test_ldF_font_base : after 0xF029 (start [(0, 0x0A)]) (·.index) = some 0x0032 ∧
    after 0xF029 (under font50 (start [(0, 0x0A)])) (·.index) = some 0x0082 := by decide
theorem test_ldF_whole_byte : after 0xF029 (start [(0, 0xFF)]) (·.index) = some 0x04FB := by decide

/-- Some bytes of memory. -/
def bytes (as : List Nat) (t : State) : List Byte := as.map t.readByte

theorem test_ldB : after 0xF033 ((start [(0, 0xC7)]).setIndex 0x1300)
    (bytes [0x300, 0x301, 0x302, 0x303]) = some [1, 9, 9, 0] := by decide
theorem test_ldB_wraps_over_the_font : after 0xF033 ((start [(0, 0x7B)]).setIndex 0x0FFE)
    (bytes [0xFFE, 0xFFF, 0x000, 0x001]) = some [1, 2, 3, 0x90] := by decide

theorem test_ldMemVx : after 0xF255 ((start [(0, 2), (1, 5), (2, 4), (3, 9)]).setIndex 0x310)
    (fun t => (bytes [0x310, 0x311, 0x312, 0x313] t, t.index)) = some ([2, 5, 4, 0], 0x310) := by
  decide
theorem test_ldMemVx_wraps : after 0xF155 ((start [(0, 0x11), (1, 0x22)]).setIndex 0x0FFF)
    (bytes [0xFFF, 0x000]) = some [0x11, 0x22] := by decide

theorem test_ldVxMem_one : after 0xF065 ((start [(1, 0x03)]).setIndex 0x0004)
    (fun t => (t.reg 0, t.reg 1, t.index)) = some (0xF0, 0x03, 0x0004) := by decide
theorem test_ldVxMem_wraps : after 0xF165 (((start []).writeByte 0xFFF 0x77).setIndex 0x0FFF)
    (regsPc [0, 1]) = some ([0x77, 0xF0], 0x202) := by decide

/-! ### 2.7 Fallback, 2.8 host events -/

/-- The reply of one event, and something of the next state. -/
def reply (e : Event) (s : State) (look : State → α) : Option (Reply × α) :=
  match deliver e s with
  | .next (t, r) => some (r, look t)
  | .fault _ => none
  | .refused _ => none

theorem test_nop_logged : reply .cpuTick ((start [(0, 1)]).placeWord 0xF130) (regsPc [0]) =
    some (.unrecognized 0x200 0xF130, [0x01], 0x202) := by decide
theorem test_cls_not_logged : reply .cpuTick (start []) (·.pc) = some (.none, 0x202) := by decide

theorem test_load_program : reply (.loadProgram [0x12, 0x34]) State.reset
    (bytes [0x1FF, 0x200, 0x201, 0x202, 0x000]) = some (.loadOk, [0, 0x12, 0x34, 0, 0xF0]) := by decide
theorem test_key_down_and_code_16 :
    reply (.keyDown 5) (start []) (·.keys[5]) = some (.none, true) ∧
    reply (.keyDown 16) (start []) (·.pc) = none := by decide
theorem test_consume_dirty : reply .consumeDirty { start [] with dirty := true } (·.dirty) =
    some (.dirty true, false) := by decide
theorem test_status_read_after_overflow :
    reply .statusRead ({ start [] with sp := 16 }.raiseFatal .stackOverflow 0x2300) (·.sp) =
      some (.status 1 0x1FE 0x2300 0, 16) := by decide

/-- The host's way to run a word: placed where the first tick after reset fetches. -/
theorem test_withFetchWord_runs :
    (match step (State.reset.withFetchWord 16 0x6A2F) with
      | .next t => t.reg 0xA
      | .fault _ => 0
      | .refused _ => 0) = 0x2F := by decide

/-! ## Witnesses: states and operands that meet the hypotheses of the statements -/

/-- The state `exec` answers, where it answers one. -/
def exec! (i : Instr) (s : State) : State :=
  match exec i s with
  | .next t => t
  | .fault _ => s
  | .refused _ => s

/-- DecodeInvertsEncode. -/
theorem witness_decodeInvertsEncode :
    (Instr.drw 1 2 5).wellFormed = true ∧ (Instr.nop 0xFFFF).wellFormed = true := by decide

/-- DecodeFollowsTheOpcodeMap: a word that matches a row, and one that matches none. -/
theorem witness_opcodeMap :
    (Kind.drw, 0xD000#16, 0xF000#16) ∈ opcodeTable ∧ 0xD125#16 &&& 0xF000 = 0xD000 ∧
      ∀ row ∈ opcodeTable, 0xF130#16 &&& row.2.2 ≠ row.2.1 := by decide

/-- StepRunsTheDecodedInstruction, FatalTickRecordsAndSuppresses, NopAdvancesAndIsLogged: under
either policy, at the last address a fetch may use under `fault`. -/
theorem witness_step :
    (∀ c ∈ [Config.default, strict],
      let s := under c (((start []).setPc 0x0FFE).placeWord 0xF130)
      s.status = .run ∧ s.pc.toNat + 2 ≤ memSize ∧ s.readByte s.pc.toNat = 0xF1 ∧
        s.readByte (s.pc.toNat + 1) = 0x30 ∧ decode (0xF1#8 ++ 0x30#8) = .nop 0xF130 ∧
        (decode s.fetchWord).kind = .nop) ∧
    (decode ((start []).placeWord 0x1234).fetchWord).kind ≠ .nop ∧
    (decode ((start []).placeWord 0x2300).fetchWord).kind = .call ∧
    ({ start [] with sp := 16 } : State).sp = 16 ∧
    (decode ((start []).placeWord 0x00EE).fetchWord).kind = .ret ∧ (start []).sp = 0 := by decide

/-- StoreIsSeenByTheNextFetch: each clause, the store at PC or at PC + 1. -/
theorem witness_storeIsSeen :
    (let s := ((start [(1, 0x12)]).setPc 0x206).setIndex 0x205
     (s.index.toNat + 1) % 4096 = (exec! (.ldMemVx 1) s).pc.toNat % 4096 ∧
     (s.index.toNat + 1 + 1) % 4096 = ((exec! (.ldMemVx 1) s).pc.toNat + 1) % 4096) ∧
    (let s := ((start [(1, 0x12)]).setPc 0x0FFF).setIndex 0x1FFE
     (s.index.toNat + 1) % 4096 = (exec! (.ldB 1) s).pc.toNat % 4096 ∧
     (s.index.toNat + 2) % 4096 = ((exec! (.ldB 1) s).pc.toNat + 1) % 4096) := by decide

theorem witness_storeIsSeen_completes (s : State) (h : s.cfg.oorPolicy = .wrap) (x : Nibble) :
    exec (.ldMemVx x) s = .next (exec! (.ldMemVx x) s) ∧
      exec (.ldB x) s = .next (exec! (.ldB x) s) := by
  simp [exec!, exec, execLdMemVx, execLdB, State.canAccess, h]

/-- OutOfRangeAccessFaults: each clause at its boundary, one below it the access completes. -/
theorem witness_outOfRange :
    strict.oorPolicy = .fault ∧
    after 0x0001 (under strict ((start []).setPc 0x0FFE)) (·.pc) = some 0x1000 ∧
    after 0x0001 (under strict ((start []).setPc 0x0FFF)) (·.pc) = none ∧
    after 0xF033 (under strict ((start []).setIndex 0x0FFD)) (·.pc) = some 0x202 ∧
    after 0xF033 (under strict ((start []).setIndex 0x0FFE)) (·.pc) = none ∧
    after 0xFF55 (under strict ((start []).setIndex 0x0FF0)) (·.pc) = some 0x202 ∧
    after 0xFF55 (under strict ((start []).setIndex 0x0FF1)) (·.pc) = none ∧
    after 0xF065 (under strict ((start []).setIndex 0x0FFF)) (·.pc) = some 0x202 ∧
    after 0xF065 (under strict ((start []).setIndex 0x1000)) (·.pc) = none := by decide

/-- OutOfRangeAccessFaults and DrwXorsTheSpriteAndFlagsCollision: only rows on the screen are read. -/
theorem witness_outOfRange_drw :
    after 0xD012 (under strict ((start [(1, 30)]).setIndex 0x0FFE)) (·.pc) = some 0x202 ∧
    after 0xD013 (under strict ((start [(1, 30)]).setIndex 0x0FFE)) (·.pc) = some 0x202 ∧
    after 0xD013 (under strict ((start [(1, 29)]).setIndex 0x0FFE)) (·.pc) = none ∧
    after 0xD010 (under strict ((start []).setIndex 0x1000)) (·.pc) = some 0x202 := by decide

/-- EveryInstructionCompletesUnderWrap: the default machine. -/
theorem witness_wrap : State.reset.cfg.oorPolicy = .wrap := rfl

/-- PcAfterEachKind, RegistersChangeOnlyAsNamed, EachPieceOfStateHasItsWriters,
HostOnlyStateNeverInfluences, TimerTickCommutesWithInstructions: an instruction that completes. -/
theorem witness_completes :
    exec (.addReg 1 2) State.reset = .next (exec! (.addReg 1 2) State.reset) ∧
      ¬ (Instr.addReg 1 2).names 3 ∧ (Instr.addReg 1 2).kind ∉ [.ldVxDt, .ldDtVx, .ldStVx] :=
  ⟨rfl, by simp [Instr.names], by decide⟩

/-- VfChangesOnlyAsFlagOrDestination: a kind without a flag that does not name VF, and each kind
with one, completing at reset. -/
theorem witness_vf :
    ((Instr.or 1 2).kind.writesFlag = false ∧ ¬ (Instr.or 1 2).names 15) ∧
    ∀ i ∈ [Instr.or 1 2, .addReg 1 2, .sub 1 2, .shr 1 2, .subn 1 2, .shl 1 2, .drw 1 2 5],
      exec i State.reset = .next (exec! i State.reset) := by
  refine ⟨⟨by decide, by simp [Instr.names]⟩, ?_⟩
  intro i hi
  simp only [List.mem_cons, List.not_mem_nil, or_false] at hi
  rcases hi with rfl | rfl | rfl | rfl | rfl | rfl | rfl <;> rfl

/-- StepKeepsTheInvariant, EventsKeepTheInvariant, ResetMeetsTheInvariant: the reset state. -/
theorem reset_inv : State.reset.Inv :=
  ⟨⟨List.Pairwise.nil, fun _ h => absurd h List.not_mem_nil⟩,
    ⟨fun _ => ⟨rfl, rfl⟩, by decide, by decide, by decide⟩, fun _ => rfl⟩

theorem witness_step_from_reset :
    step State.reset = .next (exec! (.cls 0x00) State.reset.afterFetch) := rfl

theorem witness_events :
    (match deliverAll [.loadProgram [0x22, 0x00], .cpuTick, .timerTick, .keyDown 15, .consumeDirty]
        State.reset with
      | .next t => some (t.sp, t.pc, t.bootOpen)
      | .fault _ => none
      | .refused _ => none) = some (1, 0x200, false) := by decide

/-- The flag writers: with `x = 15`, either order occurs. -/
theorem witness_vfDestOrder :
    State.reset.cfg.vfDestOrder = .flagThenResult ∧
      (under flagLast State.reset).cfg.vfDestOrder = .resultThenFlag := ⟨rfl, rfl⟩

/-- CallPushesOrOverflows, RetPopsOrUnderflows, CallThenRetReturns: SP at 0, 1, 15 and 16. -/
theorem witness_sp :
    State.reset.sp.val < 16 ∧ ({ State.reset with sp := 15 } : State).sp.val < 16 ∧
    ({ State.reset with sp := 16 } : State).sp = 16 ∧
    0 < ({ State.reset with sp := 1 } : State).sp.val ∧
    0 < ({ State.reset with sp := 16 } : State).sp.val ∧ State.reset.sp = 0 := by decide

/-- StackLimitsAreExact: sixteen CALLs from reset. -/
theorem witness_sixteen_calls :
    State.reset.status = .run ∧ State.reset.sp = 0 ∧
      (List.replicate 16 (0x300 : Addr)).length = 16 := by decide

/-- SkipsStepOverOneSlot: each kind of skip. -/
theorem witness_skips :
    ∀ i ∈ [Instr.seImm 1 2, .sneImm 1 2, .seReg 1 2 3, .sneReg 1 2 3, .skp 1, .sknp 1],
      i.kind ∈ skipKinds := by decide

/-- NormalEndIsStable: `1200` at 0x200 after the boot; under `fault` too. -/
theorem witness_normalEnd :
    ∀ c ∈ [Config.default, strict],
      let s := under c { (start []).placeWord 0x1200 with bootOpen := false }
      s.atNormalEnd ∧ s.bootOpen = false := by decide

/-- FatalConditionsHaveOneCauseEach: each condition is reached; HostEventsTouchOnlyTheirOwnState: an
event that is neither `reset` nor `cpu_tick`. -/
theorem witness_fatal_causes :
    State.reset.status = .run ∧
    reply .cpuTick ({ start [] with sp := 16 }.placeWord 0x2300) (·.status) =
      some (.none, .stackOverflow) ∧
    reply .cpuTick ((start []).placeWord 0x000E) (·.status) = some (.none, .stackUnderflow) ∧
    Event.keyDown 5 ≠ .reset ∧ Event.keyDown 5 ≠ .cpuTick := by decide

theorem witness_load_too_large :
    deliver (.loadProgram (List.replicate 3585 0)) State.reset =
      .next ({ State.reset with status := .programTooLarge, bootOpen := false }, .loadError) := by
  have h : (List.replicate 3585 (0 : Byte)).length > progMax := by
    rw [List.length_replicate]; decide
  simp only [deliver, loadEvent, State.loadProgram, if_pos h]
  rfl

/-- DrwXorsTheSpriteAndFlagsCollision, LdBStoresThreeDigits, LdMemVxStoresRegisters,
LdVxMemLoadsRegisters: operands in range under either policy, at the boundary. -/
theorem witness_operandInRange :
    State.reset.operandInRange 16 ∧
    ((under strict State.reset).setIndex 0x0FF0).operandInRange 16 ∧
    ((under strict State.reset).setIndex 0x0FFD).operandInRange 3 ∧
    ((under strict State.reset).setIndex 0x1000).operandInRange 0 := by decide

/-- DrawingTwiceRestores (E4): both draws complete, the second reports a collision. -/
theorem witness_drawTwice :
    let s := sprite 0xFF []
    exec (.drw 0 1 1) s = .next (exec! (.drw 0 1 1) s) ∧
      exec (.drw 0 1 1) (exec! (.drw 0 1 1) s) =
        .next (exec! (.drw 0 1 1) (exec! (.drw 0 1 1) s)) := ⟨rfl, rfl⟩
theorem witness_drawTwice_flags :
    (exec! (.drw 0 1 1) (sprite 0xFF [])).reg 15 = 0x00 ∧
      (exec! (.drw 0 1 1) (exec! (.drw 0 1 1) (sprite 0xFF []))).reg 15 = 0x01 := by decide

/-- WaitKeyTakesTheLowestOrRewinds: the last code of either range, and no key in range. -/
theorem witness_waitKey :
    (let s := press [14] State.reset
     14 ≤ lastScannedKey s.cfg.waitKeyLast ∧ s.keys[14] = true ∧
       ∀ j : Fin 16, j < 14 → s.keys[j.val] = false) ∧
    (let s := under scanAll (press [15] State.reset)
     15 ≤ lastScannedKey s.cfg.waitKeyLast ∧ s.keys[15] = true ∧
       ∀ j : Fin 16, j < 15 → s.keys[j.val] = false) ∧
    ∀ k : Fin 16, k.val ≤ 0xE → (press [15] State.reset).keys[k.val] = false := by decide

/-- IdleKeyWaitChangesNothing: a key wait after the boot, key F held. -/
theorem witness_idleWait :
    let s := press [15] { (start []).placeWord 0xF30A with bootOpen := false }
    s.status = .run ∧ s.bootOpen = false ∧ s.pc.toNat + 2 ≤ memSize ∧
      decode s.fetchWord = .ldVxK 3 ∧ ¬ s.keyInRange := by decide

/-- HaltedStateIsInert, FatalStatusStaysUntilReset: each fatal condition, and an event. -/
theorem witness_halted :
    (∀ c ∈ [Status.stackOverflow, .stackUnderflow, .programTooLarge],
      (State.reset.raiseFatal c 0x2300).status ≠ .run) ∧ Event.timerTick ≠ .reset ∧
    reply .timerTick (State.reset.raiseFatal .stackOverflow 0x2300) (·.dt) = some (.none, 0) := by
  decide

/-- LoadProgramCopiesOrRejects: the longest program and one byte more, at reset. -/
theorem witness_load :
    State.reset.bootOpen = true ∧ State.reset.status = .run ∧
      (List.replicate 3584 (0xAA : Byte)).length ≤ 3584 ∧
      3584 < (List.replicate 3585 (0xAA : Byte)).length :=
  ⟨rfl, rfl, List.length_replicate.le, by rw [List.length_replicate]; decide⟩

/-- LoadIsAcceptedOnlyOnceAndBeforeTicks: both ways to end the boot. -/
theorem witness_boot :
    (∃ t r, deliver .cpuTick State.reset = .next (t, r)) ∧
      ∃ t r, deliver (.loadProgram [0x12, 0x00]) State.reset = .next (t, r) :=
  ⟨⟨_, _, rfl⟩, ⟨_, _, rfl⟩⟩

/-- KeyEventsSetOneSlot: the last code and the first one that is none. -/
theorem witness_keyCode : (15 : Nat) < 16 ∧ 16 ≤ (16 : Nat) := by decide

end Sys2Proof.Tests
end

section
/-!
PROOFS. Decode against the opcode map (30_encoding.md R72, R74, R75), and the tick that runs the
decoded instruction (R70). The dispatch is walked once for the map, by `decode_followsMap`, and once
for the fields, by `decode_fieldsFrom`.
-/

namespace Sys2Proof

/-! ## The fields of a masked word -/

theorem famOf_and (op m : Word) : famOf (op &&& m) = famOf op &&& famOf m := BitVec.extractLsb'_and
theorem nOf_and (op m : Word) : nOf (op &&& m) = nOf op &&& nOf m := BitVec.extractLsb'_and
theorem kkOf_and (op m : Word) : kkOf (op &&& m) = kkOf op &&& kkOf m := BitVec.extractLsb'_and

/-- A mask of the family keeps the family and clears the rest. -/
theorem and_maskFam (op : Word) : op &&& 0xF000 = famOf op ++ 0#12 :=
  calc op &&& 0xF000 = (famOf op ++ nnnOf op) &&& (0xF#4 ++ 0#12) := by rw [formatA_eta]; rfl
    _ = famOf op ++ 0#12 := by
      rw [BitVec.and_append, BitVec.and_zero]; congr 1; exact BitVec.and_allOnes

/-- A mask of family and low nibble keeps these two and clears `op[11:4]`. -/
theorem and_maskFamN (op : Word) : op &&& 0xF00F = famOf op ++ 0#8 ++ nOf op :=
  calc op &&& 0xF00F = (famOf op ++ midOf op ++ nOf op) &&& (0xF#4 ++ 0#8 ++ 0xF#4) := by
        rw [formatZ_eta]; rfl
    _ = famOf op ++ 0#8 ++ nOf op := by
      rw [BitVec.and_append, BitVec.and_append, BitVec.and_zero]
      congr 1
      · congr 1; exact BitVec.and_allOnes
      · exact BitVec.and_allOnes

/-- A mask of family and low byte keeps these two and clears `x`. -/
theorem and_maskFamKk (op : Word) : op &&& 0xF0FF = famOf op ++ 0#4 ++ kkOf op :=
  calc op &&& 0xF0FF = (famOf op ++ xOf op ++ kkOf op) &&& (0xF#4 ++ 0#4 ++ 0xFF#8) := by
        rw [formatXK_eta]; rfl
    _ = famOf op ++ 0#4 ++ kkOf op := by
      rw [BitVec.and_append, BitVec.and_append, BitVec.and_zero]
      congr 1
      · congr 1; exact BitVec.and_allOnes
      · exact BitVec.and_allOnes

/-! ## The rows of the map -/

theorem opcodeTable_kind_ne_nop : ∀ row ∈ opcodeTable, row.1 ≠ .nop := by decide

theorem opcodeTable_kind_inj :
    ∀ row ∈ opcodeTable, ∀ other ∈ opcodeTable, row.1 = other.1 → row = other := by decide

theorem opcodeTable_family_mem : ∀ row ∈ opcodeTable, famOf row.2.1 ∈ row.1.families := by decide

/-- Every mask keeps the whole family, so a word is in the family of a row it matches. -/
theorem famOf_eq_of_match {op : Word} {row : Kind × Word × Word} (hrow : row ∈ opcodeTable)
    (h : op &&& row.2.2 = row.2.1) : famOf row.2.1 = famOf op := by
  have hmask : ∀ r ∈ opcodeTable, famOf r.2.2 = BitVec.allOnes 4 := by decide
  rw [← h, famOf_and, hmask row hrow, BitVec.and_allOnes]

/-- No word matches two rows: their match values differ in a bit that both masks keep. -/
theorem opcodeTable_disjoint {op : Word} {row other : Kind × Word × Word}
    (hrow : row ∈ opcodeTable) (hother : other ∈ opcodeTable)
    (h : op &&& row.2.2 = row.2.1) (h' : op &&& other.2.2 = other.2.1) : row = other := by
  have differ : ∀ r ∈ opcodeTable, ∀ o ∈ opcodeTable,
      r.2.1 &&& o.2.2 = o.2.1 &&& r.2.2 → r = o := by decide
  apply differ row hrow other hother
  rw [← h, ← h', BitVec.and_assoc, BitVec.and_assoc, BitVec.and_comm row.2.2]

/-! ## Words that match no row (R84) -/

section
variable {op : Word} {f : Nibble}

theorem no_row_of_nOf {lows : List Nibble} (hf : famOf op = f) (hn : nOf op ∉ lows)
    (hrows : ∀ row ∈ opcodeTable, famOf row.2.1 = f →
      nOf row.2.2 = BitVec.allOnes 4 ∧ nOf row.2.1 ∈ lows) :
    ∀ row ∈ opcodeTable, op &&& row.2.2 ≠ row.2.1 := by
  intro row hrow h
  obtain ⟨hmask, hlow⟩ := hrows row hrow ((famOf_eq_of_match hrow h).trans hf)
  rw [← h, nOf_and, hmask, BitVec.and_allOnes] at hlow
  exact hn hlow

theorem no_row_of_kkOf {lows : List Byte} (hf : famOf op = f) (hkk : kkOf op ∉ lows)
    (hrows : ∀ row ∈ opcodeTable, famOf row.2.1 = f →
      kkOf row.2.2 = BitVec.allOnes 8 ∧ kkOf row.2.1 ∈ lows) :
    ∀ row ∈ opcodeTable, op &&& row.2.2 ≠ row.2.1 := by
  intro row hrow h
  obtain ⟨hmask, hlow⟩ := hrows row hrow ((famOf_eq_of_match hrow h).trans hf)
  rw [← h, kkOf_and, hmask, BitVec.and_allOnes] at hlow
  exact hkk hlow
end

/-! ## The dispatch follows the map (R74) -/

/-- `k` is what the map gives for `op`: the kind of a row that `op` matches; or NOP, where no row
matches, which only four families leave room for (R84). -/
def FollowsMap (op : Word) (k : Kind) : Prop :=
  (∃ row ∈ opcodeTable, row.1 = k ∧ op &&& row.2.2 = row.2.1) ∨
  (k = .nop ∧ famOf op ∈ Kind.nop.families ∧ ∀ row ∈ opcodeTable, op &&& row.2.2 ≠ row.2.1)

section
variable {op : Word} {k : Kind} {f : Nibble}

theorem followsMap_of_fam (hf : famOf op = f) (hrow : (k, f ++ 0#12, 0xF000) ∈ opcodeTable) :
    FollowsMap op k :=
  .inl ⟨_, hrow, rfl, by rw [and_maskFam, hf]⟩

theorem followsMap_of_nOf {n : Nibble} (hf : famOf op = f) (hn : nOf op = n)
    (hrow : (k, f ++ 0#8 ++ n, 0xF00F) ∈ opcodeTable) : FollowsMap op k :=
  .inl ⟨_, hrow, rfl, by rw [and_maskFamN, hf, hn]⟩

theorem followsMap_of_kkOf {kk : Byte} (hf : famOf op = f) (hkk : kkOf op = kk)
    (hrow : (k, f ++ 0#4 ++ kk, 0xF0FF) ∈ opcodeTable) : FollowsMap op k :=
  .inl ⟨_, hrow, rfl, by rw [and_maskFamKk, hf, hkk]⟩
end

section
variable {op : Word}

theorem decodeFamily0_followsMap (hf : famOf op = 0x0) : FollowsMap op (decodeFamily0 op).kind := by
  unfold decodeFamily0
  split_ifs with h0 hE
  · exact followsMap_of_nOf hf h0 (by simp [opcodeTable, Instr.kind])
  · exact followsMap_of_nOf hf hE (by simp [opcodeTable, Instr.kind])
  · exact .inr ⟨rfl, by rw [hf]; decide,
      no_row_of_nOf (lows := [0x0, 0xE]) hf (by simp_all) (by decide)⟩

theorem decodeFamily8_followsMap (hf : famOf op = 0x8) : FollowsMap op (decodeFamily8 op).kind := by
  unfold decodeFamily8
  split_ifs
  case neg =>
    exact .inr ⟨rfl, by rw [hf]; decide,
      no_row_of_nOf (lows := [0, 1, 2, 3, 4, 5, 6, 7, 0xE]) hf (by simp_all) (by decide)⟩
  all_goals exact followsMap_of_nOf hf ‹nOf op = _› (by simp [opcodeTable, Instr.kind])

theorem decodeFamilyE_followsMap (hf : famOf op = 0xE) : FollowsMap op (decodeFamilyE op).kind := by
  unfold decodeFamilyE
  split_ifs with h9E hA1
  · exact followsMap_of_kkOf hf h9E (by simp [opcodeTable, Instr.kind])
  · exact followsMap_of_kkOf hf hA1 (by simp [opcodeTable, Instr.kind])
  · exact .inr ⟨rfl, by rw [hf]; decide,
      no_row_of_kkOf (lows := [0x9E, 0xA1]) hf (by simp_all) (by decide)⟩

theorem decodeFamilyF_followsMap (hf : famOf op = 0xF) : FollowsMap op (decodeFamilyF op).kind := by
  unfold decodeFamilyF
  split_ifs
  case neg =>
    exact .inr ⟨rfl, by rw [hf]; decide,
      no_row_of_kkOf (lows := [0x07, 0x0A, 0x15, 0x18, 0x1E, 0x29, 0x33, 0x55, 0x65]) hf
        (by simp_all) (by decide)⟩
  all_goals exact followsMap_of_kkOf hf ‹kkOf op = _› (by simp [opcodeTable, Instr.kind])
end

theorem decode_followsMap (op : Word) : FollowsMap op (decode op).kind := by
  rcases nibble_cases (famOf op) with
    h | h | h | h | h | h | h | h | h | h | h | h | h | h | h | h
  · rw [decode_family0 h]; exact decodeFamily0_followsMap h
  · rw [decode_family1 h]; exact followsMap_of_fam (k := .jp) h (by decide)
  · rw [decode_family2 h]; exact followsMap_of_fam (k := .call) h (by decide)
  · rw [decode_family3 h]; exact followsMap_of_fam (k := .seImm) h (by decide)
  · rw [decode_family4 h]; exact followsMap_of_fam (k := .sneImm) h (by decide)
  · rw [decode_family5 h]; exact followsMap_of_fam (k := .seReg) h (by decide)
  · rw [decode_family6 h]; exact followsMap_of_fam (k := .ldImm) h (by decide)
  · rw [decode_family7 h]; exact followsMap_of_fam (k := .addImm) h (by decide)
  · rw [decode_family8 h]; exact decodeFamily8_followsMap h
  · rw [decode_family9 h]; exact followsMap_of_fam (k := .sneReg) h (by decide)
  · rw [decode_familyA h]; exact followsMap_of_fam (k := .ldI) h (by decide)
  · rw [decode_familyB h]; exact followsMap_of_fam (k := .jpV0) h (by decide)
  · rw [decode_familyC h]; exact followsMap_of_fam (k := .rnd) h (by decide)
  · rw [decode_familyD h]; exact followsMap_of_fam (k := .drw) h (by decide)
  · rw [decode_familyE h]; exact decodeFamilyE_followsMap h
  · rw [decode_familyF h]; exact decodeFamilyF_followsMap h

/-! ## What the map says of a decoded word -/

/-- A word decodes to a row's kind exactly when it matches the row. -/
theorem decode_kind_eq_iff_match {op : Word} {row : Kind × Word × Word}
    (hrow : row ∈ opcodeTable) : (decode op).kind = row.1 ↔ op &&& row.2.2 = row.2.1 := by
  obtain ⟨own, hown, hkind, hmatch⟩ | ⟨hnop, -, hnone⟩ := decode_followsMap op
  · rw [← hkind]
    constructor
    · intro hk
      rwa [← opcodeTable_kind_inj own hown row hrow hk]
    · intro h
      rw [opcodeTable_disjoint hown hrow hmatch h]
  · rw [hnop]
    exact ⟨fun hk => absurd hk.symm (opcodeTable_kind_ne_nop row hrow),
      fun h => absurd h (hnone row hrow)⟩

/-- A word decodes to NOP exactly when it matches no row. -/
theorem decode_kind_eq_nop_iff (op : Word) :
    (decode op).kind = .nop ↔ ∀ row ∈ opcodeTable, op &&& row.2.2 ≠ row.2.1 := by
  constructor
  · intro hk row hrow h
    exact opcodeTable_kind_ne_nop row hrow (((decode_kind_eq_iff_match hrow).2 h).symm.trans hk)
  · intro hnone
    obtain ⟨row, hrow, -, h⟩ | ⟨hnop, -⟩ := decode_followsMap op
    · exact absurd h (hnone row hrow)
    · exact hnop

/-- The family of a word is one its decoded kind has (R75, R84). -/
theorem famOf_mem_families (op : Word) : famOf op ∈ (decode op).kind.families := by
  obtain ⟨row, hrow, hkind, h⟩ | ⟨hnop, hfam, -⟩ := decode_followsMap op
  · rw [← hkind, ← famOf_eq_of_match hrow h]
    exact opcodeTable_family_mem row hrow
  · rwa [hnop]

/-- Settles O3: the dispatch follows the map, and two rows that one word matches are one row. -/
theorem decodeFollowsTheOpcodeMap : Obligations.DecodeFollowsTheOpcodeMap :=
  ⟨fun _ _ => decode_kind_eq_iff_match,
    fun _ _ hrow _ hother => opcodeTable_disjoint hrow hother, decode_kind_eq_nop_iff⟩

/-! ## The fields of a decoded instruction (R72) -/

section
variable (op : Word)

theorem decodeFamily0_fieldsFrom : (decodeFamily0 op).fieldsFrom op.toNat := by
  unfold decodeFamily0; split_ifs <;> simp [Instr.fieldsFrom, midOf_toNat]
theorem decodeFamily8_fieldsFrom : (decodeFamily8 op).fieldsFrom op.toNat := by
  unfold decodeFamily8; split_ifs <;> simp [Instr.fieldsFrom, xOf_toNat, yOf_toNat]
theorem decodeFamilyE_fieldsFrom : (decodeFamilyE op).fieldsFrom op.toNat := by
  unfold decodeFamilyE; split_ifs <;> simp [Instr.fieldsFrom, xOf_toNat]
theorem decodeFamilyF_fieldsFrom : (decodeFamilyF op).fieldsFrom op.toNat := by
  unfold decodeFamilyF; split_ifs <;> simp [Instr.fieldsFrom, xOf_toNat]

theorem decode_fieldsFrom : (decode op).fieldsFrom op.toNat := by
  rcases nibble_cases (famOf op) with
    h | h | h | h | h | h | h | h | h | h | h | h | h | h | h | h
  · rw [decode_family0 h]; exact decodeFamily0_fieldsFrom op
  · rw [decode_family1 h]; exact nnnOf_toNat op
  · rw [decode_family2 h]; exact nnnOf_toNat op
  · rw [decode_family3 h]; exact ⟨xOf_toNat op, kkOf_toNat op⟩
  · rw [decode_family4 h]; exact ⟨xOf_toNat op, kkOf_toNat op⟩
  · rw [decode_family5 h]; exact ⟨xOf_toNat op, yOf_toNat op, nOf_toNat op⟩
  · rw [decode_family6 h]; exact ⟨xOf_toNat op, kkOf_toNat op⟩
  · rw [decode_family7 h]; exact ⟨xOf_toNat op, kkOf_toNat op⟩
  · rw [decode_family8 h]; exact decodeFamily8_fieldsFrom op
  · rw [decode_family9 h]; exact ⟨xOf_toNat op, yOf_toNat op, nOf_toNat op⟩
  · rw [decode_familyA h]; exact nnnOf_toNat op
  · rw [decode_familyB h]; exact nnnOf_toNat op
  · rw [decode_familyC h]; exact ⟨xOf_toNat op, kkOf_toNat op⟩
  · rw [decode_familyD h]; exact ⟨xOf_toNat op, yOf_toNat op, nOf_toNat op⟩
  · rw [decode_familyE h]; exact decodeFamilyE_fieldsFrom op
  · rw [decode_familyF h]; exact decodeFamilyF_fieldsFrom op
end

/-- Settles O4, from the number of each field, the map's families and the fields of each format. -/
theorem decodeExtractsTheFields : Obligations.DecodeExtractsTheFields := fun op =>
  ⟨famOf_toNat op, xOf_toNat op, yOf_toNat op, nOf_toNat op, kkOf_toNat op, nnnOf_toNat op,
    famOf_mem_families op, decode_fieldsFrom op⟩

end Sys2Proof

namespace Sys2Proof.Machine

/-! ## A tick in RUN (R70) -/

/-- A tick whose fetch has a meaning runs the decoded word in the post-fetch state. -/
theorem step_of_run {s : State} (hrun : s.status = .run) (hfetch : s.canFetch = true) :
    step s = exec (decode s.fetchWord) s.afterFetch := by
  rw [step, if_pos hrun, if_pos hfetch]

/-- A fetch has a meaning under `wrap`, and under `fault` where both bytes lie in memory. -/
theorem State.canFetch_iff (s : State) :
    s.canFetch = true ↔ (s.cfg.oorPolicy = .fault → s.pc.toNat + 2 ≤ memSize) := by
  rw [State.canFetch, State.canAccess_iff]
  simp only [OfNat.ofNat_ne_zero, false_or]

/-- Settles O7: the word fetched is the two bytes at PC, the high one first. -/
theorem stepRunsTheDecodedInstruction : Obligations.StepRunsTheDecodedInstruction := by
  rintro s i hi lo hrun hrange rfl rfl rfl
  exact step_of_run hrun (s.canFetch_iff.2 hrange)

end Sys2Proof.Machine
end

section
/-!
PROOFS. The five flag-writing kinds of family 0x8 (40_alu.md R106 to R111): what each flag and each
result is as a number, and the two writes that all five end in.
-/

namespace Sys2Proof

/-! ## The words of family 0x8 (R77) -/

section
variable (x y : Nibble)

theorem decode_formatXY8 (n : Nibble) :
    decode (0x8#4 ++ x ++ y ++ n) = decodeFamily8 (0x8#4 ++ x ++ y ++ n) :=
  decode_family8 (famOf_formatXYN 0x8#4 x y n)

theorem decode_addReg : decode (0x8#4 ++ x ++ y ++ 0x4#4) = .addReg x y := by
  simp [decode_formatXY8, decodeFamily8]
theorem decode_sub : decode (0x8#4 ++ x ++ y ++ 0x5#4) = .sub x y := by
  simp [decode_formatXY8, decodeFamily8]
theorem decode_shr : decode (0x8#4 ++ x ++ y ++ 0x6#4) = .shr x y := by
  simp [decode_formatXY8, decodeFamily8]
theorem decode_subn : decode (0x8#4 ++ x ++ y ++ 0x7#4) = .subn x y := by
  simp [decode_formatXY8, decodeFamily8]
theorem decode_shl : decode (0x8#4 ++ x ++ y ++ 0xE#4) = .shl x y := by
  simp [decode_formatXY8, decodeFamily8]
end

end Sys2Proof

namespace Sys2Proof.Machine

/-! ## Flags and results as numbers (R106 to R110, R113) -/

section
variable (a b : Byte)

theorem flagByte_addFlag_toNat :
    (flagByte (addFlag a b)).toNat = if a.toNat + b.toNat > 255 then 1 else 0 := by
  simp [flagByte_toNat, addFlag]

theorem flagByte_subFlag_toNat :
    (flagByte (subFlag a b)).toNat = if a.toNat > b.toNat then 1 else 0 := by
  simp [flagByte_toNat, subFlag]

theorem flagByte_toNat_eq_toNat (f : Bool) : (flagByte f).toNat = f.toNat := by cases f <;> rfl

theorem flagByte_shrFlag_toNat : (flagByte (shrFlag a)).toNat = a.toNat % 2 := by
  rw [flagByte_toNat_eq_toNat, shrFlag, BitVec.getLsbD, Nat.toNat_testBit]; simp

/-- Bit 7 is the top bit, so the quotient is already 0 or 1. -/
theorem flagByte_shlFlag_toNat : (flagByte (shlFlag a)).toNat = a.toNat / 128 := by
  rw [flagByte_toNat_eq_toNat, shlFlag, BitVec.getLsbD, Nat.toNat_testBit]; omega

theorem addResult_toNat : (addResult a b).toNat = (a.toNat + b.toNat) % 256 := by
  simp [addResult]

theorem subResult_toNat : (subResult a b).toNat =
    if a.toNat ≥ b.toNat then a.toNat - b.toNat else a.toNat + 256 - b.toNat := by
  rw [subResult, BitVec.toNat_ofNat]
  split <;> omega

theorem shrResult_toNat : (shrResult a).toNat = a.toNat / 2 := by
  rw [shrResult, BitVec.toNat_ofNat]; omega

theorem shlResult_toNat : (shlResult a).toNat = 2 * a.toNat % 256 := by
  simp [shlResult]
end

/-! ## The five kinds -/

/-- An execution that ends in the two writes of R111 completes and wrote these numbers. -/
theorem completes_of_writeFlagAndResult {o : Host.Outcome State Fault Refusal} {s : State}
    {x : Nibble} {f : Bool} {r : Byte} {flag result : Nat}
    (ho : o = .next (s.writeFlagAndResult x f r))
    (hflag : (flagByte f).toNat = flag) (hresult : r.toNat = result) :
    ∃ t, o = .next t ∧ wroteFlagAndResult x flag result s t := by
  rw [flagByte_toNat] at hflag
  subst hflag hresult
  exact ⟨_, ho, s.writeFlagAndResult_wrote x f r⟩

/-- Settles O23: the carry and the low byte of the sum go through the two writes of R111. -/
theorem addRegSumAndCarry : Obligations.AddRegSumAndCarry := fun x y _ =>
  ⟨decode_addReg x y, completes_of_writeFlagAndResult rfl
    (flagByte_addFlag_toNat _ _) (addResult_toNat _ _)⟩

/-- Settles O24: the strict comparison and the wrapped difference go through the two writes of
R111. -/
theorem subDifferenceAndStrictFlag : Obligations.SubDifferenceAndStrictFlag := fun x y _ =>
  ⟨decode_sub x y, completes_of_writeFlagAndResult rfl
    (flagByte_subFlag_toNat _ _) (subResult_toNat _ _)⟩

/-- Settles O25: bit 0 and the half go through the two writes of R111. -/
theorem shrHalvesAndKeepsTheBit : Obligations.ShrHalvesAndKeepsTheBit := fun x y _ =>
  ⟨decode_shr x y, completes_of_writeFlagAndResult rfl
    (flagByte_shrFlag_toNat _) (shrResult_toNat _)⟩

/-- Settles O26: as for SUB, with `V[y]` as the minuend. -/
theorem subnDifferenceAndStrictFlag : Obligations.SubnDifferenceAndStrictFlag := fun x y _ =>
  ⟨decode_subn x y, completes_of_writeFlagAndResult rfl
    (flagByte_subFlag_toNat _ _) (subResult_toNat _ _)⟩

/-- Settles O27: bit 7 and the double modulo 256 go through the two writes of R111. -/
theorem shlDoublesAndKeepsTheBit : Obligations.ShlDoublesAndKeepsTheBit := fun x y _ =>
  ⟨decode_shl x y, completes_of_writeFlagAndResult rfl
    (flagByte_shlFlag_toNat _) (shlResult_toNat _)⟩

end Sys2Proof.Machine
end

section
/-!
PROOFS. Control transfer: the absolute jump (41_control_flow.md R120) and the six skips (R124 to
R128, R151, R152). `exec_skip` walks the six arms once: each ends in `State.skipIf` on its
condition.
-/

namespace Sys2Proof

theorem decode_jp (nnn : Addr) : decode (0x1#4 ++ nnn) = .jp nnn := by
  rw [decode_family1 (famOf_formatA 0x1#4 nnn), nnnOf_formatA]

end Sys2Proof

namespace Sys2Proof.Machine

/-! ## JP (R120) -/

@[simp] theorem zextAddr_toNat (nnn : Addr) : (zextAddr nnn).toNat = nnn.toNat :=
  BitVec.toNat_setWidth_of_le (by decide)

/-- Settles O29: PC becomes the zero extension of the address field. -/
theorem jpSetsPc : Obligations.JpSetsPc := fun nnn s =>
  ⟨decode_jp nnn, s.setPc (zextAddr nnn), rfl, zextAddr_toNat nnn, rfl⟩

/-! ## The six skips (R128) -/

/-- The post-fetch PC is `PC0 + 2`, so the extra 2 of a skip gives `PC0 + 4`. -/
theorem State.skipIf_pc (s : State) (c : Bool) :
    (s.skipIf c).pc = skipTarget (s.pc - 2) (c = true) := by
  cases c with
  | false => exact (BitVec.sub_add_cancel s.pc 2).symm
  | true =>
    change s.pc + 2 = s.pc - 2 + 4
    bv_omega

theorem State.skipIf_pc_eq_or (s : State) (c : Bool) :
    (s.skipIf c).pc = s.pc ∨ (s.skipIf c).pc = s.pc + 2 := by
  cases c
  · exact .inl rfl
  · exact .inr rfl

theorem skipTarget_congr (pc0 : Word) {p q : Prop} [Decidable p] [Decidable q] (h : p ↔ q) :
    skipTarget pc0 p = skipTarget pc0 q := if_congr h rfl rfl

/-- The key a register names is the one at its value modulo 16 (R150). -/
theorem State.key_keyIndex (s : State) (b : Byte) :
    s.key (keyIndex b) = s.keys[b.toNat % 16] := by
  simp [State.key, keyIndex]

/-- Each skip is `skipIf` on the condition that `pcAfter` names; no memory `m` changes it. -/
theorem exec_skip {i : Instr} (s : State) (hi : i.kind ∈ skipKinds) :
    ∃ c : Bool, (∀ m, exec i { s with mem := m } = .next ({ s with mem := m }.skipIf c)) ∧
      pcAfter i (s.pc - 2) s = skipTarget (s.pc - 2) (c = true) := by
  cases i with
  | seImm x kk => exact ⟨s.reg x == kk, fun _ => rfl, skipTarget_congr _ beq_iff_eq.symm⟩
  | sneImm x kk => exact ⟨s.reg x != kk, fun _ => rfl, skipTarget_congr _ bne_iff_ne.symm⟩
  | seReg x y _ => exact ⟨s.reg x == s.reg y, fun _ => rfl, skipTarget_congr _ beq_iff_eq.symm⟩
  | sneReg x y _ => exact ⟨s.reg x != s.reg y, fun _ => rfl, skipTarget_congr _ bne_iff_ne.symm⟩
  | skp x => exact ⟨s.key (keyIndex (s.reg x)), fun _ => rfl,
      skipTarget_congr _ (by rw [State.key_keyIndex])⟩
  | sknp x => exact ⟨!s.key (keyIndex (s.reg x)), fun _ => rfl,
      skipTarget_congr _ (by rw [State.key_keyIndex, Bool.not_eq_true'])⟩
  | _ => simp [skipKinds, Instr.kind] at hi

/-- Settles O36: by `exec_skip`, `s` itself being `s` with its own memory. -/
theorem skipsStepOverOneSlot : Obligations.SkipsStepOverOneSlot := fun i s hi => by
  obtain ⟨c, hexec, hpc⟩ := exec_skip s hi
  refine ⟨s.skipIf c, hexec s.mem, ?frame, s.skipIf_pc_eq_or c, (s.skipIf_pc c).trans hpc.symm,
    fun m => (hexec m).trans ?mem⟩
  case frame => rw [State.skipIf_eq]
  case mem => rw [State.skipIf_eq, State.skipIf_eq]

end Sys2Proof.Machine
end

section
/-!
PROOFS. LD_B (44_timer_index_memory.md R166, R169): the digits as numbers, and the run of three
bytes the instruction stores at I.
-/

namespace Sys2Proof

/-! ## The words of family 0xF (R79) -/

theorem decode_formatXKF (x : Nibble) (kk : Byte) :
    decode (0xF#4 ++ x ++ kk) = decodeFamilyF (0xF#4 ++ x ++ kk) :=
  decode_familyF (famOf_formatXK 0xF#4 x kk)

theorem decode_ldB (x : Nibble) : decode (0xF#4 ++ x ++ 0x33#8) = .ldB x := by
  simp [decode_formatXKF, decodeFamilyF]

end Sys2Proof

namespace Sys2Proof.Machine

/-! ## The digits (R166) -/

@[simp] theorem bcdDigits_length (b : Byte) : (bcdDigits b).length = 3 := rfl

/-- Each digit fits a byte, so the list holds its number whole. -/
theorem bcdDigits_toNat (b : Byte) :
    (bcdDigits b)[0].toNat = b.toNat / 100 ∧ (bcdDigits b)[1].toNat = b.toNat / 10 % 10 ∧
      (bcdDigits b)[2].toNat = b.toNat % 10 := by
  simp only [bcdDigits, List.getElem_cons_zero, List.getElem_cons_succ, BitVec.toNat_ofNat]
  omega

/-! ## The access at I (R52, R53) -/

theorem State.canAccess_operandAddr_iff (s : State) (n : Nat) :
    s.canAccess (s.operandAddr 0) n = true ↔ s.operandInRange n :=
  s.canAccess_iff (s.operandAddr 0) n

/-- With its operand in range LD_B completes, and all it does is to store the digits at I. -/
theorem exec_ldB_of_inRange {x : Nibble} {s : State} (h : s.operandInRange 3) :
    exec (.ldB x) s = .next (s.writeBytes s.index.toNat (bcdDigits (s.reg x))) :=
  if_pos ((s.canAccess_operandAddr_iff 3).2 h)

/-- Settles O45: the stored run is the three digits, and three bytes never wrap onto each other. -/
theorem ldBStoresThreeDigits : Obligations.LdBStoresThreeDigits := by
  refine fun x s => ⟨decode_ldB x, fun h => ⟨_, exec_ldB_of_inRange h, ?_⟩⟩
  obtain ⟨stored, kept⟩ :=
    State.writeBytes_read (bcdDigits (s.reg x)) s s.index.toNat (by simp [memSize])
  obtain ⟨hundreds, tens, ones⟩ := bcdDigits_toNat (s.reg x)
  exact ⟨(congrArg BitVec.toNat (stored 0 (by simp))).trans hundreds,
    (congrArg BitVec.toNat (stored 1 (by simp))).trans tens,
    (congrArg BitVec.toNat (stored 2 (by simp))).trans ones,
    kept, State.writeBytes_frame _ _ _⟩

end Sys2Proof.Machine
end

section
/-!
PROOFS. The return stack's limits (41_control_flow.md R121, R123; 60_exceptions.md R191, R192): what
CALL and RET do at each depth of the stack, and a run of CALLs that the stack has room for.
-/

namespace Sys2Proof

theorem decode_ret (mid : Byte) : decode (0x0#4 ++ mid ++ 0xE#4) = .ret mid := by
  simp [decode_family0, decodeFamily0]

end Sys2Proof

namespace Sys2Proof.Machine

/-! ## The depth of the stack (R27) -/

theorem State.room_or_full (s : State) : s.sp.val < 16 ∨ s.sp = 16 :=
  (Nat.lt_or_eq_of_le (Nat.le_of_lt_succ s.sp.isLt)).imp_right fun h => Fin.ext h

theorem State.empty_or_held (s : State) : s.sp = 0 ∨ 0 < s.sp.val :=
  (Nat.eq_zero_or_pos s.sp.val).imp_left fun h => Fin.ext h

/-! ## CALL and RET at each depth -/

section
variable {s : State}

theorem exec_call_of_room (nnn : Addr) (room : s.sp.val < 16) :
    exec (.call nnn) s = .next ((s.push s.pc room).setPc (zextAddr nnn)) := dif_pos room

theorem exec_call_of_full (nnn : Addr) (full : s.sp = 16) :
    exec (.call nnn) s = .next (s.raiseFatal .stackOverflow (encode (.call nnn))) :=
  dif_neg (by rw [full]; decide)

theorem exec_ret_of_held (mid : Byte) (held : 0 < s.sp.val) :
    exec (.ret mid) s = .next (s.pop.setPc (s.top held)) := dif_pos held

theorem exec_ret_of_empty (mid : Byte) (empty : s.sp = 0) :
    exec (.ret mid) s = .next (s.raiseFatal .stackUnderflow (encode (.ret mid))) :=
  dif_neg (by rw [empty]; decide)
end

/-! ## A run of CALLs -/

/-- CALLs that the stack has room for all succeed and deepen it by one each. -/
theorem callAll_of_room (targets : List Addr) : ∀ s : State, s.status = .run →
    s.sp.val + targets.length ≤ 16 → ∃ t, callAll targets s = .next t ∧ t.status = .run ∧
      t.sp.val = s.sp.val + targets.length := by
  induction targets with
  | nil => exact fun s hrun _ => ⟨s, rfl, hrun, rfl⟩
  | cons nnn rest ih =>
    intro s hrun hroom
    rw [List.length_cons] at hroom ⊢
    have room : s.sp.val < 16 := by omega
    obtain ⟨t, hcalls, ht, hsp⟩ := ih ((s.push s.pc room).setPc (zextAddr nnn)) (by simpa using hrun)
      (by simp only [State.setPc_sp, State.push_sp]; omega)
    refine ⟨t, ?calls, ht, ?depth⟩
    case calls => rw [callAll, exec_call_of_room nnn room]; exact hcalls
    case depth => simp only [State.setPc_sp, State.push_sp] at hsp; omega

/-! ## The exact fatal conditions (R191, R192) -/

/-- A CALL with room changes no status; a fatal one leaves STACK, SP and PC. -/
theorem exec_call_fatal_iff (nnn : Addr) {s : State} (hrun : s.status = .run) :
    ∃ t, exec (.call nnn) s = .next t ∧ (t.status = .stackOverflow ↔ s.sp = 16) ∧
      (s.sp = 16 → t.stack = s.stack ∧ t.sp = s.sp ∧ t.pc = s.pc) := by
  rcases s.room_or_full with room | full
  · have notFull : s.sp ≠ 16 := fun h => absurd room (by rw [h]; decide)
    exact ⟨_, exec_call_of_room nnn room, by simp [hrun, notFull], fun h => absurd h notFull⟩
  · exact ⟨_, exec_call_of_full nnn full, iff_of_true rfl full, fun _ => ⟨rfl, rfl, rfl⟩⟩

/-- A RET that pops changes no status; a fatal one leaves STACK, SP and PC. -/
theorem exec_ret_fatal_iff (mid : Byte) {s : State} (hrun : s.status = .run) :
    ∃ t, exec (.ret mid) s = .next t ∧ (t.status = .stackUnderflow ↔ s.sp = 0) ∧
      (s.sp = 0 → t.stack = s.stack ∧ t.sp = s.sp ∧ t.pc = s.pc) := by
  rcases s.empty_or_held with empty | held
  · exact ⟨_, exec_ret_of_empty mid empty, iff_of_true rfl empty, fun _ => ⟨rfl, rfl, rfl⟩⟩
  · have notEmpty : s.sp ≠ 0 := fun h => absurd held (by rw [h]; decide)
    exact ⟨_, exec_ret_of_held mid held, by simp [hrun, notEmpty], fun h => absurd h notEmpty⟩

/-- Settles O33: sixteen CALLs fill an empty stack, by `callAll_of_room`, and each fatal condition
is the depth at which the instruction has no slot. -/
theorem stackLimitsAreExact : Obligations.StackLimitsAreExact := by
  refine ⟨?sixteen, fun nnn _ hrun => exec_call_fatal_iff nnn hrun,
    fun mid _ hrun => ⟨decode_ret mid, exec_ret_fatal_iff mid hrun⟩⟩
  case sixteen =>
    intro s targets last hrun hempty hlen
    obtain ⟨t, hcalls, ht, hsp⟩ := callAll_of_room targets s hrun (by simp [hempty, hlen])
    have full : t.sp = 16 := Fin.ext (by simp [hsp, hempty, hlen])
    exact ⟨t, _, hcalls, ht, full, exec_call_of_full last full, rfl⟩

end Sys2Proof.Machine
end

section
/-!
PROOFS. Decode and encode invert each other (30_encoding.md R74, R75, R82), and the fallback space
(R84). One lemma per row says what the row's word decodes to; the way back is walked family by
family, since every word is its fields written one after the other.
-/

namespace Sys2Proof

/-! ## The word of each row decodes to the row's instruction (R75) -/

section
variable (mid : Byte) (nnn : Addr) (x y n : Nibble) (kk : Byte)

theorem decode_cls : decode (0x0#4 ++ mid ++ 0x0#4) = .cls mid := by
  simp [decode_family0, decodeFamily0]

theorem decode_call : decode (0x2#4 ++ nnn) = .call nnn := by
  rw [decode_family2 (famOf_formatA 0x2#4 nnn), nnnOf_formatA]
theorem decode_ldI : decode (0xA#4 ++ nnn) = .ldI nnn := by
  rw [decode_familyA (famOf_formatA 0xA#4 nnn), nnnOf_formatA]
theorem decode_jpV0 : decode (0xB#4 ++ nnn) = .jpV0 nnn := by
  rw [decode_familyB (famOf_formatA 0xB#4 nnn), nnnOf_formatA]

theorem decode_seImm : decode (0x3#4 ++ x ++ kk) = .seImm x kk := by
  rw [decode_family3 (famOf_formatXK 0x3#4 x kk), xOf_formatXK, kkOf_formatXK]
theorem decode_sneImm : decode (0x4#4 ++ x ++ kk) = .sneImm x kk := by
  rw [decode_family4 (famOf_formatXK 0x4#4 x kk), xOf_formatXK, kkOf_formatXK]
theorem decode_ldImm : decode (0x6#4 ++ x ++ kk) = .ldImm x kk := by
  rw [decode_family6 (famOf_formatXK 0x6#4 x kk), xOf_formatXK, kkOf_formatXK]
theorem decode_addImm : decode (0x7#4 ++ x ++ kk) = .addImm x kk := by
  rw [decode_family7 (famOf_formatXK 0x7#4 x kk), xOf_formatXK, kkOf_formatXK]
theorem decode_rnd : decode (0xC#4 ++ x ++ kk) = .rnd x kk := by
  rw [decode_familyC (famOf_formatXK 0xC#4 x kk), xOf_formatXK, kkOf_formatXK]

theorem decode_seReg : decode (0x5#4 ++ x ++ y ++ n) = .seReg x y n := by
  rw [decode_family5 (famOf_formatXYN 0x5#4 x y n), xOf_formatXYN, yOf_formatXYN, nOf_formatXYN]
theorem decode_sneReg : decode (0x9#4 ++ x ++ y ++ n) = .sneReg x y n := by
  rw [decode_family9 (famOf_formatXYN 0x9#4 x y n), xOf_formatXYN, yOf_formatXYN, nOf_formatXYN]
theorem decode_drw : decode (0xD#4 ++ x ++ y ++ n) = .drw x y n := by
  rw [decode_familyD (famOf_formatXYN 0xD#4 x y n), xOf_formatXYN, yOf_formatXYN, nOf_formatXYN]

theorem decode_ldReg : decode (0x8#4 ++ x ++ y ++ 0x0#4) = .ldReg x y := by
  simp [decode_formatXY8, decodeFamily8]
theorem decode_or : decode (0x8#4 ++ x ++ y ++ 0x1#4) = .or x y := by
  simp [decode_formatXY8, decodeFamily8]
theorem decode_and : decode (0x8#4 ++ x ++ y ++ 0x2#4) = .and x y := by
  simp [decode_formatXY8, decodeFamily8]
theorem decode_xor : decode (0x8#4 ++ x ++ y ++ 0x3#4) = .xor x y := by
  simp [decode_formatXY8, decodeFamily8]

theorem decode_formatXKE : decode (0xE#4 ++ x ++ kk) = decodeFamilyE (0xE#4 ++ x ++ kk) :=
  decode_familyE (famOf_formatXK 0xE#4 x kk)

theorem decode_skp : decode (0xE#4 ++ x ++ 0x9E#8) = .skp x := by
  simp [decode_formatXKE, decodeFamilyE]
theorem decode_sknp : decode (0xE#4 ++ x ++ 0xA1#8) = .sknp x := by
  simp [decode_formatXKE, decodeFamilyE]

theorem decode_ldVxDt : decode (0xF#4 ++ x ++ 0x07#8) = .ldVxDt x := by
  simp [decode_formatXKF, decodeFamilyF]
theorem decode_ldVxK : decode (0xF#4 ++ x ++ 0x0A#8) = .ldVxK x := by
  simp [decode_formatXKF, decodeFamilyF]
theorem decode_ldDtVx : decode (0xF#4 ++ x ++ 0x15#8) = .ldDtVx x := by
  simp [decode_formatXKF, decodeFamilyF]
theorem decode_ldStVx : decode (0xF#4 ++ x ++ 0x18#8) = .ldStVx x := by
  simp [decode_formatXKF, decodeFamilyF]
theorem decode_addI : decode (0xF#4 ++ x ++ 0x1E#8) = .addI x := by
  simp [decode_formatXKF, decodeFamilyF]
theorem decode_ldF : decode (0xF#4 ++ x ++ 0x29#8) = .ldF x := by
  simp [decode_formatXKF, decodeFamilyF]
theorem decode_ldMemVx : decode (0xF#4 ++ x ++ 0x55#8) = .ldMemVx x := by
  simp [decode_formatXKF, decodeFamilyF]
theorem decode_ldVxMem : decode (0xF#4 ++ x ++ 0x65#8) = .ldVxMem x := by
  simp [decode_formatXKF, decodeFamilyF]
end

/-! ## The fallback space (R84) -/

theorem decodeFamily0_kind_nop_iff (op : Word) :
    (decodeFamily0 op).kind = .nop ↔ nOf op ∉ [0x0, 0xE] := by
  unfold decodeFamily0; split_ifs <;> simp_all [Instr.kind]

theorem decodeFamily8_kind_nop_iff (op : Word) :
    (decodeFamily8 op).kind = .nop ↔ nOf op ∉ [0, 1, 2, 3, 4, 5, 6, 7, 0xE] := by
  unfold decodeFamily8; split_ifs <;> simp_all [Instr.kind]

theorem decodeFamilyE_kind_nop_iff (op : Word) :
    (decodeFamilyE op).kind = .nop ↔ kkOf op ∉ [0x9E, 0xA1] := by
  unfold decodeFamilyE; split_ifs <;> simp_all [Instr.kind]

theorem decodeFamilyF_kind_nop_iff (op : Word) : (decodeFamilyF op).kind = .nop ↔
    kkOf op ∉ [0x07, 0x0A, 0x15, 0x18, 0x1E, 0x29, 0x33, 0x55, 0x65] := by
  unfold decodeFamilyF; split_ifs <;> simp_all [Instr.kind]

/-- A NOP carries the word it was decoded from. -/
theorem decode_eq_nop_iff (op : Word) : decode op = .nop op ↔ (decode op).kind = .nop := by
  refine ⟨fun h => by rw [h]; rfl, fun h => ?_⟩
  have fields := decode_fieldsFrom op
  cases hi : decode op with
  | nop w =>
    rw [hi] at fields
    rw [BitVec.eq_of_toNat_eq fields]
  | _ => rw [hi] at h; cases h

/-- The words that decode to NOP, by their fields. -/
theorem decode_kind_nop_iff_fields (op : Word) : (decode op).kind = .nop ↔
    (famOf op = 0x0 ∧ nOf op ∉ [0x0, 0xE]) ∨
    (famOf op = 0x8 ∧ nOf op ∉ [0, 1, 2, 3, 4, 5, 6, 7, 0xE]) ∨
    (famOf op = 0xE ∧ kkOf op ∉ [0x9E, 0xA1]) ∨
    (famOf op = 0xF ∧ kkOf op ∉ [0x07, 0x0A, 0x15, 0x18, 0x1E, 0x29, 0x33, 0x55, 0x65]) := by
  rcases nibble_cases (famOf op) with
    h | h | h | h | h | h | h | h | h | h | h | h | h | h | h | h
  · simp [decode_family0 h, h, decodeFamily0_kind_nop_iff]
  · simp [decode_family1 h, h, Instr.kind]
  · simp [decode_family2 h, h, Instr.kind]
  · simp [decode_family3 h, h, Instr.kind]
  · simp [decode_family4 h, h, Instr.kind]
  · simp [decode_family5 h, h, Instr.kind]
  · simp [decode_family6 h, h, Instr.kind]
  · simp [decode_family7 h, h, Instr.kind]
  · simp [decode_family8 h, h, decodeFamily8_kind_nop_iff]
  · simp [decode_family9 h, h, Instr.kind]
  · simp [decode_familyA h, h, Instr.kind]
  · simp [decode_familyB h, h, Instr.kind]
  · simp [decode_familyC h, h, Instr.kind]
  · simp [decode_familyD h, h, Instr.kind]
  · simp [decode_familyE h, h, decodeFamilyE_kind_nop_iff]
  · simp [decode_familyF h, h, decodeFamilyF_kind_nop_iff]

/-- Well-formedness of a NOP asks for a word that decodes to NOP. -/
theorem inFallbackSpace_iff (op : Word) : inFallbackSpace op = true ↔ (decode op).kind = .nop := by
  rw [decode_kind_nop_iff_fields]
  have hlow : (nOf op ∉ [0, 1, 2, 3, 4, 5, 6, 7, 0xE]) ↔
      nOf op ∈ [0x8, 0x9, 0xA, 0xB, 0xC, 0xD, 0xF] := by generalize nOf op = n; revert n; decide
  rw [hlow]
  simp only [inFallbackSpace, famOf, nOf, kkOf]
  split_ifs with h0 h8 hE hF
  · simp [h0]
  · simp [h8, or_assoc]
  · simp [hE]
  · simp [hF, and_assoc]
  · simp only [h0, h8, hE, hF, false_and, or_self]

/-- Settles O5: the fields of the fallback space, as numbers. -/
theorem fallbackSpaceIsExact : Obligations.FallbackSpaceIsExact := by
  intro op
  simp only [decode_kind_nop_iff_fields, List.mem_cons, List.not_mem_nil, or_false, famOf_eq,
    nOf_eq, kkOf_eq, BitVec.toNat_ofNat, BitVec.ofNat_eq_ofNat]
  omega

/-! ## Round trips (R74, R82) -/

/-- Settles O1, one row after the other; a well-formed NOP is one by `inFallbackSpace_iff`. -/
theorem decodeInvertsEncode : Obligations.DecodeInvertsEncode := by
  intro i hi
  cases i with
  | cls mid => exact decode_cls mid
  | ret mid => exact decode_ret mid
  | jp nnn => exact decode_jp nnn
  | call nnn => exact decode_call nnn
  | seImm x kk => exact decode_seImm x kk
  | sneImm x kk => exact decode_sneImm x kk
  | seReg x y low => exact decode_seReg x y low
  | ldImm x kk => exact decode_ldImm x kk
  | addImm x kk => exact decode_addImm x kk
  | ldReg x y => exact decode_ldReg x y
  | or x y => exact decode_or x y
  | and x y => exact decode_and x y
  | xor x y => exact decode_xor x y
  | addReg x y => exact decode_addReg x y
  | sub x y => exact decode_sub x y
  | shr x y => exact decode_shr x y
  | subn x y => exact decode_subn x y
  | shl x y => exact decode_shl x y
  | sneReg x y low => exact decode_sneReg x y low
  | ldI nnn => exact decode_ldI nnn
  | jpV0 nnn => exact decode_jpV0 nnn
  | rnd x kk => exact decode_rnd x kk
  | drw x y n => exact decode_drw x y n
  | skp x => exact decode_skp x
  | sknp x => exact decode_sknp x
  | ldVxDt x => exact decode_ldVxDt x
  | ldVxK x => exact decode_ldVxK x
  | ldDtVx x => exact decode_ldDtVx x
  | ldStVx x => exact decode_ldStVx x
  | addI x => exact decode_addI x
  | ldF x => exact decode_ldF x
  | ldB x => exact decode_ldB x
  | ldMemVx x => exact decode_ldMemVx x
  | ldVxMem x => exact decode_ldVxMem x
  | nop op => exact (decode_eq_nop_iff op).2 ((inFallbackSpace_iff op).1 hi)

/-! ### A word is its fields -/

section
variable {op : Word} {f n : Nibble} {kk : Byte}

theorem formatA_of (hf : famOf op = f) : f ++ nnnOf op = op := by rw [← hf, formatA_eta]
theorem formatXK_of (hf : famOf op = f) (hkk : kkOf op = kk) : f ++ xOf op ++ kk = op := by
  rw [← hf, ← hkk, formatXK_eta]
theorem formatXYN_of (hf : famOf op = f) (hn : nOf op = n) : f ++ xOf op ++ yOf op ++ n = op := by
  rw [← hf, ← hn, formatXYN_eta]
theorem formatZ_of (hf : famOf op = f) (hn : nOf op = n) : f ++ midOf op ++ n = op := by
  rw [← hf, ← hn, formatZ_eta]

theorem encode_decodeFamily0 (hf : famOf op = 0x0) : encode (decodeFamily0 op) = op := by
  unfold decodeFamily0
  split_ifs with h0 hE
  · exact formatZ_of hf h0
  · exact formatZ_of hf hE
  · rfl

theorem encode_decodeFamily8 (hf : famOf op = 0x8) : encode (decodeFamily8 op) = op := by
  unfold decodeFamily8
  split_ifs
  case neg => rfl
  all_goals exact formatXYN_of hf ‹nOf op = _›

theorem encode_decodeFamilyE (hf : famOf op = 0xE) : encode (decodeFamilyE op) = op := by
  unfold decodeFamilyE
  split_ifs with h9E hA1
  · exact formatXK_of hf h9E
  · exact formatXK_of hf hA1
  · rfl

theorem encode_decodeFamilyF (hf : famOf op = 0xF) : encode (decodeFamilyF op) = op := by
  unfold decodeFamilyF
  split_ifs
  case neg => rfl
  all_goals exact formatXK_of hf ‹kkOf op = _›
end

theorem encode_decode (op : Word) : encode (decode op) = op := by
  rcases nibble_cases (famOf op) with
    h | h | h | h | h | h | h | h | h | h | h | h | h | h | h | h
  · rw [decode_family0 h]; exact encode_decodeFamily0 h
  · rw [decode_family1 h]; exact formatA_of h
  · rw [decode_family2 h]; exact formatA_of h
  · rw [decode_family3 h]; exact formatXK_of h rfl
  · rw [decode_family4 h]; exact formatXK_of h rfl
  · rw [decode_family5 h]; exact formatXYN_of h rfl
  · rw [decode_family6 h]; exact formatXK_of h rfl
  · rw [decode_family7 h]; exact formatXK_of h rfl
  · rw [decode_family8 h]; exact encode_decodeFamily8 h
  · rw [decode_family9 h]; exact formatXYN_of h rfl
  · rw [decode_familyA h]; exact formatA_of h
  · rw [decode_familyB h]; exact formatA_of h
  · rw [decode_familyC h]; exact formatXK_of h rfl
  · rw [decode_familyD h]; exact formatXYN_of h rfl
  · rw [decode_familyE h]; exact encode_decodeFamilyE h
  · rw [decode_familyF h]; exact encode_decodeFamilyF h

theorem decode_wellFormed (op : Word) : (decode op).wellFormed = true := by
  cases hi : decode op with
  | nop w =>
    have hk : (decode op).kind = .nop := by rw [hi]; rfl
    cases hi.symm.trans ((decode_eq_nop_iff op).2 hk)
    exact (inFallbackSpace_iff op).2 hk
  | _ => rfl

/-- Settles O2: a word is its fields in order, and a NOP only carries a word of the fallback
space. -/
theorem encodeInvertsDecode : Obligations.EncodeInvertsDecode := fun op =>
  ⟨decode_wellFormed op, encode_decode op⟩

/-- Settles O6, by evaluation of the decoder on each word. -/
theorem knownWordsDecode : Obligations.KnownWordsDecode := by
  unfold Obligations.KnownWordsDecode
  decide

end Sys2Proof
end

section
/-!
PROOFS. Which executions complete (20_memory.md R52, R53; 60_exceptions.md R190), what the fetch
reads (R51, R55), and the bulk moves between registers and memory (44_timer_index_memory.md R167 to
R169). `Instr.operandLen` says once how many bytes at I an instruction accesses.
-/

namespace Sys2Proof.Machine

/-! ## Completion and fault -/

/-- How many bytes from I on an instruction accesses in the state `s` (R142, R166 to R168). -/
def operandLen (i : Instr) (s : State) : Nat :=
  match i with
  | .drw _ y n => visibleRows (originY (s.reg y)) n
  | .ldB _ => 3
  | .ldMemVx x | .ldVxMem x => bulkCount x
  | _ => 0

theorem operandLen_drw (x y n : Nibble) (s : State) :
    operandLen (.drw x y n) s = min n.toNat (32 - (s.reg y).toNat % 32) := rfl

theorem State.operandInRange_zero (s : State) : s.operandInRange 0 := fun _ => .inl rfl

theorem State.operandInRange_of_wrap {s : State} (h : s.cfg.oorPolicy = .wrap) (n : Nat) :
    s.operandInRange n := fun hf => absurd (h.symm.trans hf) (by decide)

theorem exec_drw_of_inRange {x y n : Nibble} {s : State}
    (h : s.operandInRange (operandLen (.drw x y n) s)) : exec (.drw x y n) s =
      .next (s.drawSprite (originX (s.reg x)) (originY (s.reg y)) n.toNat) :=
  if_pos ((s.canAccess_operandAddr_iff _).2 h)

theorem exec_ldMemVx_of_inRange {x : Nibble} {s : State} (h : s.operandInRange (x.toNat + 1)) :
    exec (.ldMemVx x) s = .next (s.storeRegs s.index.toNat (x.toNat + 1)) :=
  if_pos ((s.canAccess_operandAddr_iff _).2 h)

theorem exec_ldVxMem_of_inRange {x : Nibble} {s : State} (h : s.operandInRange (x.toNat + 1)) :
    exec (.ldVxMem x) s = .next (s.loadRegs s.index.toNat (x.toNat + 1)) :=
  if_pos ((s.canAccess_operandAddr_iff _).2 h)

theorem State.firstPressed_eq_none {s : State} (h : ¬ s.keyInRange) : s.firstPressed = none := by
  rwa [← s.firstPressed_isSome, Option.not_isSome_iff_eq_none] at h

theorem exec_ldVxK_of_none {s : State} (x : Nibble) (h : s.firstPressed = none) :
    exec (.ldVxK x) s = .next (s.setPc (s.pc - 2)) := by simp only [exec, execLdVxK, h]

theorem exec_ldVxK_of_some {s : State} (x : Nibble) {k : Nat} (h : s.firstPressed = some k) :
    exec (.ldVxK x) s = .next (s.setReg x (BitVec.ofNat 8 k)) := by simp only [exec, execLdVxK, h]

/-- Nothing but an operand out of range keeps an instruction from completing (R190). -/
theorem exec_completes {i : Instr} {s : State} (h : s.operandInRange (operandLen i s)) :
    ∃ t, exec i s = .next t := by
  cases i with
  | call nnn =>
    rcases s.room_or_full with room | full
    · exact ⟨_, exec_call_of_room nnn room⟩
    · exact ⟨_, exec_call_of_full nnn full⟩
  | ret mid =>
    rcases s.empty_or_held with empty | held
    · exact ⟨_, exec_ret_of_empty mid empty⟩
    · exact ⟨_, exec_ret_of_held mid held⟩
  | ldVxK x =>
    cases hk : s.firstPressed with
    | some k => exact ⟨_, exec_ldVxK_of_some x hk⟩
    | none => exact ⟨_, exec_ldVxK_of_none x hk⟩
  | drw x y n => exact ⟨_, exec_drw_of_inRange h⟩
  | ldB x => exact ⟨_, exec_ldB_of_inRange h⟩
  | ldMemVx x => exact ⟨_, exec_ldMemVx_of_inRange h⟩
  | ldVxMem x => exact ⟨_, exec_ldVxMem_of_inRange h⟩
  | _ => exact ⟨_, rfl⟩

/-- An operand out of range faults, before any of its bytes is accessed (log entry 6). -/
theorem exec_faults {i : Instr} {s : State} (h : ¬ s.operandInRange (operandLen i s)) :
    exec i s = .fault .outOfRange := by
  have hacc : ¬ s.canAccess (s.operandAddr 0) (operandLen i s) = true :=
    fun e => h ((s.canAccess_operandAddr_iff _).1 e)
  cases i with
  | drw x y n => exact if_neg hacc
  | ldB x => exact if_neg hacc
  | ldMemVx x => exact if_neg hacc
  | ldVxMem x => exact if_neg hacc
  | _ => exact absurd s.operandInRange_zero h

/-- A completed instruction had its operand in range. -/
theorem operandInRange_of_exec {i : Instr} {s t : State} (h : exec i s = .next t) :
    s.operandInRange (operandLen i s) := by
  by_contra hr
  rw [exec_faults hr] at h
  cases h

theorem State.not_operandInRange {s : State} (hf : s.cfg.oorPolicy = .fault) {n : Nat} (hn : 0 < n)
    (h : 4096 < s.index.toNat + n) : ¬ s.operandInRange n := by
  intro hr
  have := hr hf
  simp only [memSize] at this
  omega

/-- Settles O10: the fetch by its own check, the four instructions by `exec_faults`. -/
theorem outOfRangeAccessFaults : Obligations.OutOfRangeAccessFaults := by
  intro s hf
  refine ⟨fun hrun hpc => ?fetch, fun x hx => exec_faults ?digits,
    fun x hx => ⟨exec_faults ?store, exec_faults ?load⟩, fun x y n hn hx => exec_faults ?draw⟩
  case fetch =>
    have hfetch : ¬ s.canFetch = true := fun h => absurd (s.canFetch_iff.1 h hf) (not_le.2 hpc)
    rw [step, if_pos hrun, if_neg hfetch]
  case digits => exact s.not_operandInRange hf (Nat.succ_pos _) hx
  case store => exact s.not_operandInRange hf (Nat.succ_pos _) hx
  case load => exact s.not_operandInRange hf (Nat.succ_pos _) hx
  case draw =>
    rw [operandLen_drw]
    exact s.not_operandInRange hf (by omega) hx

/-- Settles O11: under `wrap` every operand and every fetch is in range, and an execution either
completes or faults. -/
theorem everyInstructionCompletesUnderWrap : Obligations.EveryInstructionCompletesUnderWrap := by
  refine ⟨fun s hw => ⟨fun i => exec_completes (s.operandInRange_of_wrap hw _), ?tick⟩,
    fun i s r hr => ?refused⟩
  case tick =>
    by_cases hrun : s.status = .run
    · rw [step_of_run hrun (State.canAccess_wrap hw _ _)]
      exact exec_completes (s.afterFetch.operandInRange_of_wrap hw _)
    · exact ⟨s, if_neg hrun⟩
  case refused =>
    by_cases h : s.operandInRange (operandLen i s)
    · obtain ⟨t, ht⟩ := exec_completes h
      cases ht.symm.trans hr
    · cases (exec_faults h).symm.trans hr

/-! ## The fetched word (R51, R55) -/

theorem State.fetchWord_toNat (s : State) : s.fetchWord.toNat =
    (s.readByte s.pc.toNat).toNat * 256 + (s.readByte (s.pc.toNat + 1)).toNat :=
  wordOf_toNat _ _

/-- Settles O8: each byte is read at its address modulo 4096. -/
theorem fetchIsBigEndianModulo4096 : Obligations.FetchIsBigEndianModulo4096 :=
  State.fetchWord_toNat

theorem State.fetchWord_high (s : State) :
    s.fetchWord.toNat / 256 = (s.readByte s.pc.toNat).toNat := by rw [s.fetchWord_toNat]; omega
theorem State.fetchWord_low (s : State) :
    s.fetchWord.toNat % 256 = (s.readByte (s.pc.toNat + 1)).toNat := by
  rw [s.fetchWord_toNat]; omega

/-- Addresses that are equal modulo 4096 read alike. -/
theorem State.readByte_of_mod_eq (s : State) {a b : Nat} (h : a % 4096 = b % 4096) :
    s.readByte a = s.readByte b := congrArg (Memory.read s.cfg s.mem) h

/-! ## Bulk moves (R167, R168) -/

/-- What LD_MEM_VX stored, register by register. -/
theorem State.readByte_storeRegs (s : State) {x k : Nibble} (hk : k.toNat ≤ x.toNat) :
    (s.storeRegs s.index.toNat (x.toNat + 1)).readByte (s.index.toNat + k.toNat) = s.reg k := by
  rw [(s.storeRegs_read s.index.toNat (x.toNat + 1) x.isLt).1 k.toNat (Nat.lt_succ_of_le hk),
    BitVec.ofNat_toNat, BitVec.setWidth_eq]

/-- Settles O46: at most sixteen bytes are stored, so none is stored over another. -/
theorem ldMemVxStoresRegisters : Obligations.LdMemVxStoresRegisters := fun x s =>
  ⟨decode_ldMemVx x, fun h => ⟨_, exec_ldMemVx_of_inRange h, fun _ hk => s.readByte_storeRegs hk,
    fun a ha => (s.storeRegs_read s.index.toNat (x.toNat + 1) x.isLt).2 a
      fun k hk => ha k (Nat.le_of_lt_succ hk),
    s.storeRegs_frame _ _⟩⟩

/-- Settles O47: each register is written once, and memory not at all. -/
theorem ldVxMemLoadsRegisters : Obligations.LdVxMemLoadsRegisters := by
  refine fun x s => ⟨decode_ldVxMem x, fun h => ⟨_, exec_ldVxMem_of_inRange h, ?_, ?_,
    s.loadRegs_frame _ _⟩⟩
  · intro k hk
    rw [s.loadRegs_reg _ _ x.isLt, if_pos (Nat.lt_succ_of_le hk)]
  · intro k hk
    rw [s.loadRegs_reg _ _ x.isLt, if_neg (by omega)]

theorem bcdDigits_getElem_toNat (b : Byte) (k : Nat) (h : k < 3) : ((bcdDigits b)[k]).toNat =
    [b.toNat / 100, b.toNat / 10 % 10, b.toNat % 10][k] := by
  obtain ⟨hundreds, tens, ones⟩ := bcdDigits_toNat b
  interval_cases k
  · exact hundreds
  · exact tens
  · exact ones

/-- A fetch in a state whose byte at `a` is `b` has `b` in the half that lies at `a`. -/
theorem State.fetchWord_of_readByte {t : State} {a : Nat} {b : Byte} (h : t.readByte a = b) :
    (a % 4096 = t.pc.toNat % 4096 → t.fetchWord.toNat / 256 = b.toNat) ∧
    (a % 4096 = (t.pc.toNat + 1) % 4096 → t.fetchWord.toNat % 256 = b.toNat) :=
  ⟨fun ha => by rw [t.fetchWord_high, ← t.readByte_of_mod_eq ha, h],
    fun ha => by rw [t.fetchWord_low, ← t.readByte_of_mod_eq ha, h]⟩

/-- Settles O9: the stored byte is read back at its address, and the fetch reads that address. -/
theorem storeIsSeenByTheNextFetch : Obligations.StoreIsSeenByTheNextFetch := by
  constructor
  · intro x s t k h hk
    obtain rfl := Host.Outcome.next.inj
      ((exec_ldMemVx_of_inRange (operandInRange_of_exec h)).symm.trans h)
    exact State.fetchWord_of_readByte (s.readByte_storeRegs hk)
  · intro x s t k hk h
    obtain rfl := Host.Outcome.next.inj
      ((exec_ldB_of_inRange (operandInRange_of_exec h)).symm.trans h)
    rw [← bcdDigits_getElem_toNat (s.reg x) k hk]
    exact State.fetchWord_of_readByte
      ((State.writeBytes_read (bcdDigits (s.reg x)) s s.index.toNat (by simp [memSize])).1 k hk)

end Sys2Proof.Machine
end

section
/-!
PROOFS. What an instruction writes (10_state.md R20 to R35). `Effect` lists the shapes of a
completed execution, `exec_effect` walks the dispatch once, and each rule over all instructions
reads its answer off the shapes.
-/

namespace Sys2Proof.Machine

/-! ## The shapes of an execution -/

/-- The kinds that write registers alone; LD_VX_K does so when it finds a key. -/
def regKinds : List Kind :=
  [.ldImm, .addImm, .ldReg, .or, .and, .xor, .addReg, .sub, .shr, .subn, .shl, .ldVxDt, .ldVxK,
    .ldVxMem]

/-- The kinds that write PC alone, or nothing; LD_VX_K does so when it finds no key. -/
def pcKinds : List Kind := [.jp, .jpV0, .ldVxK, .nop] ++ skipKinds

/-- Every register that `i` does not name is kept, VF apart where `i` writes it as a flag (R22). -/
def RegsKept (i : Instr) (s t : State) : Prop :=
  ∀ r : Nibble, ¬ i.names r → (r = 15 → i.kind.writesFlag = false) → t.reg r = s.reg r

/-- The states that a completed execution of `i` from `s` can end in, by what it writes. -/
inductive Effect (i : Instr) (s : State) : State → Prop
  | regs (v) : i.kind ∈ regKinds → RegsKept i s { s with v := v } → Effect i s { s with v := v }
  | rnd (v) : i.kind = .rnd → RegsKept i s { s with v := v } →
      Effect i s { s with v := v, draws := s.draws + 1 }
  | pc (w) : i.kind ∈ pcKinds → Effect i s { s with pc := w }
  | push (nnn) (room : s.sp.val < 16) : i = .call nnn →
      Effect i s ((s.push s.pc room).setPc (zextAddr nnn))
  | overflow (nnn) : i = .call nnn → s.sp = 16 → Effect i s (s.raiseFatal .stackOverflow (encode i))
  | pop (mid) (held : 0 < s.sp.val) : i = .ret mid → Effect i s (s.pop.setPc (s.top held))
  | underflow (mid) : i = .ret mid → s.sp = 0 → Effect i s (s.raiseFatal .stackUnderflow (encode i))
  | index (w) : i.kind ∈ [.ldI, .addI, .ldF] → Effect i s { s with index := w }
  | mem (m) : i.kind ∈ [.ldB, .ldMemVx] → (Memory.wf s.cfg s.mem → Memory.wf s.cfg m) →
      Effect i s { s with mem := m }
  | screen (v fb) : i.kind ∈ [.cls, .drw] → RegsKept i s { s with v := v } →
      Effect i s { s with v := v, fb := fb, dirty := true }
  | dt (b) : i.kind = .ldDtVx → Effect i s { s with dt := b }
  | st (b) : i.kind = .ldStVx → Effect i s { s with st := b }

section
variable {i : Instr} {s t : State}

theorem regsKept_setReg {x : Nibble} {b : Byte} (hx : i.names x) : RegsKept i s (s.setReg x b) :=
  fun _ hr _ => State.reg_setReg_other s b fun e => hr (e ▸ hx)

theorem effect_setReg {x : Nibble} {b : Byte} (hk : i.kind ∈ regKinds) (hx : i.names x) :
    Effect i s (s.setReg x b) := .regs _ hk (regsKept_setReg hx)

theorem effect_writeFlagAndResult {x : Nibble} {f : Bool} {b : Byte} (hk : i.kind ∈ regKinds)
    (hx : i.names x) (hflag : i.kind.writesFlag = true) :
    Effect i s (s.writeFlagAndResult x f b) := by
  have kept : RegsKept i s (s.writeFlagAndResult x f b) := by
    obtain ⟨-, -, -, -, other⟩ := s.writeFlagAndResult_wrote x f b
    intro r hr h15
    refine other r (fun e => hr (e ▸ hx)) fun e => ?_
    rw [h15 e] at hflag
    cases hflag
  rw [s.writeFlagAndResult_frame x f b] at kept ⊢
  exact .regs _ hk kept

theorem effect_skipIf {c : Bool} (hk : i.kind ∈ pcKinds) : Effect i s (s.skipIf c) := by
  rw [s.skipIf_eq c]
  exact .pc _ hk

theorem effect_of_memFrame (hk : i.kind ∈ [.ldB, .ldMemVx]) (frame : t = { s with mem := t.mem })
    (hwf : Memory.wf s.cfg s.mem → Memory.wf t.cfg t.mem) : Effect i s t := by
  have hcfg : t.cfg = s.cfg := by rw [frame]
  rw [frame]
  exact .mem _ hk (hcfg ▸ hwf)

theorem effect_loadRegs (x : Nibble) :
    Effect (.ldVxMem x) s (s.loadRegs s.index.toNat (x.toNat + 1)) := by
  have kept : RegsKept (.ldVxMem x) s (s.loadRegs s.index.toNat (x.toNat + 1)) := by
    intro r hr _
    rw [s.loadRegs_reg _ _ x.isLt, if_neg fun hlt => hr (Nat.le_of_lt_succ hlt)]
  rw [s.loadRegs_frame] at kept ⊢
  exact .regs _ (by simp [regKinds, Instr.kind]) kept

theorem regsKept_drawSprite (x y n : Nibble) (x0 y0 rows : Nat) :
    RegsKept (.drw x y n) s { s with v := (s.drawSprite x0 y0 rows).v } := fun _ _ h15 =>
  State.reg_setReg_other s _ fun e => absurd (h15 e) (by simp [Kind.writesFlag, Instr.kind])

theorem exec_effect (h : exec i s = .next t) : Effect i s t := by
  have inRange := operandInRange_of_exec h
  cases i with
  | cls mid => cases h; exact .screen s.v _ (by simp [Instr.kind]) fun _ _ _ => rfl
  | drw x y n =>
    cases (exec_drw_of_inRange inRange).symm.trans h
    exact .screen _ _ (by simp [Instr.kind]) (regsKept_drawSprite x y n _ _ _)
  | call nnn =>
    rcases s.room_or_full with room | full
    · cases (exec_call_of_room nnn room).symm.trans h; exact .push nnn room rfl
    · cases (exec_call_of_full nnn full).symm.trans h; exact .overflow nnn rfl full
  | ret mid =>
    rcases s.empty_or_held with empty | held
    · cases (exec_ret_of_empty mid empty).symm.trans h; exact .underflow mid rfl empty
    · cases (exec_ret_of_held mid held).symm.trans h; exact .pop mid held rfl
  | jp _ | jpV0 _ | nop _ => cases h; exact .pc _ (by simp [pcKinds, Instr.kind])
  | seImm _ _ | sneImm _ _ | seReg _ _ _ | sneReg _ _ _ | skp _ | sknp _ =>
    cases h; exact effect_skipIf (by simp [pcKinds, skipKinds, Instr.kind])
  | ldImm x _ | addImm x _ | ldReg x _ | or x _ | and x _ | xor x _ | ldVxDt x =>
    cases h; exact effect_setReg (by simp [regKinds, Instr.kind]) rfl
  | addReg x _ | sub x _ | shr x _ | subn x _ | shl x _ =>
    cases h; exact effect_writeFlagAndResult (by simp [regKinds, Instr.kind]) rfl rfl
  | rnd x kk => cases h; exact .rnd _ rfl (regsKept_setReg rfl)
  | ldVxK x =>
    cases hscan : s.firstPressed with
    | some k =>
      cases (exec_ldVxK_of_some x hscan).symm.trans h
      exact effect_setReg (by simp [regKinds, Instr.kind]) rfl
    | none =>
      cases (exec_ldVxK_of_none x hscan).symm.trans h
      exact .pc _ (by simp [pcKinds, Instr.kind])
  | ldI _ | addI _ | ldF _ => cases h; exact .index _ (by simp [Instr.kind])
  | ldDtVx x => cases h; exact .dt _ rfl
  | ldStVx x => cases h; exact .st _ rfl
  | ldB x =>
    cases (exec_ldB_of_inRange inRange).symm.trans h
    exact effect_of_memFrame (by simp [Instr.kind]) (s.writeBytes_frame _ _)
      (s.writeBytes_wf _ _)
  | ldMemVx x =>
    cases (exec_ldMemVx_of_inRange inRange).symm.trans h
    exact effect_of_memFrame (by simp [Instr.kind]) (s.storeRegs_frame _ _) (s.storeRegs_wf _ _)
  | ldVxMem x =>
    cases (exec_ldVxMem_of_inRange inRange).symm.trans h
    exact effect_loadRegs x

/-! ## Each piece of state and its writers -/

theorem exec_regsKept (h : exec i s = .next t) : RegsKept i s t := by
  cases exec_effect h with
  | regs v _ kept => exact kept
  | rnd v _ kept => exact kept
  | screen v fb _ kept => exact kept
  | _ => exact fun _ _ _ => rfl

theorem exec_pc_eq (h : exec i s = .next t) (hk : i.kind ∉ [.call, .ret] ++ pcKinds) :
    t.pc = s.pc := by
  rw [List.mem_append, not_or] at hk
  obtain ⟨hstack, hpc⟩ := hk
  cases exec_effect h with
  | pc w hk => exact absurd hk hpc
  | push _ _ hi => subst hi; simp [Instr.kind] at hstack
  | pop _ _ hi => subst hi; simp [Instr.kind] at hstack
  | _ => rfl

theorem exec_index_eq (h : exec i s = .next t) (hk : i.kind ∉ [.ldI, .addI, .ldF]) :
    t.index = s.index := by
  cases exec_effect h with
  | index w hi => exact absurd hi hk
  | _ => rfl

theorem exec_record_eq (h : exec i s = .next t) (hk : i.kind ∉ [.call, .ret]) :
    t.sp = s.sp ∧ t.status = s.status ∧ t.faultPc = s.faultPc ∧ t.faultOp = s.faultOp := by
  cases exec_effect h with
  | push _ _ hi | overflow _ hi | pop _ _ hi | underflow _ hi =>
    subst hi; simp [Instr.kind] at hk
  | _ => exact ⟨rfl, rfl, rfl, rfl⟩

theorem exec_stack_eq (h : exec i s = .next t) (hk : i.kind ≠ .call) : t.stack = s.stack := by
  cases exec_effect h with
  | push _ _ hi => subst hi; exact absurd rfl hk
  | _ => rfl

theorem exec_dt_eq (h : exec i s = .next t) (hk : i.kind ≠ .ldDtVx) : t.dt = s.dt := by
  cases exec_effect h with
  | dt _ hi => exact absurd hi hk
  | _ => rfl

theorem exec_st_eq (h : exec i s = .next t) (hk : i.kind ≠ .ldStVx) : t.st = s.st := by
  cases exec_effect h with
  | st _ hi => exact absurd hi hk
  | _ => rfl

theorem exec_mem_eq (h : exec i s = .next t) (hk : i.kind ∉ [.ldB, .ldMemVx]) : t.mem = s.mem := by
  cases exec_effect h with
  | mem _ hi => exact absurd hi hk
  | _ => rfl

theorem exec_screen_eq (h : exec i s = .next t) (hk : i.kind ∉ [.cls, .drw]) :
    t.fb = s.fb ∧ t.dirty = s.dirty := by
  cases exec_effect h with
  | screen _ _ hi => exact absurd hi hk
  | _ => exact ⟨rfl, rfl⟩

theorem exec_dirty (h : exec i s = .next t) (hk : i.kind ∈ [.cls, .drw]) : t.dirty = true := by
  have inRange := operandInRange_of_exec h
  cases i with
  | cls mid => cases h; rfl
  | drw x y n => cases (exec_drw_of_inRange inRange).symm.trans h; rfl
  | _ => simp [Instr.kind] at hk

theorem exec_keys_cfg_bootOpen (h : exec i s = .next t) :
    t.keys = s.keys ∧ t.cfg = s.cfg ∧ t.bootOpen = s.bootOpen := by
  cases exec_effect h <;> exact ⟨rfl, rfl, rfl⟩

theorem exec_draws_eq (h : exec i s = .next t) (hk : i.kind ≠ .rnd) : t.draws = s.draws := by
  cases exec_effect h with
  | rnd _ hi => exact absurd hi hk
  | _ => rfl
end

/-- Settles O14: each shape that writes registers keeps those not named. -/
theorem registersChangeOnlyAsNamed : Obligations.RegistersChangeOnlyAsNamed :=
  fun _ _ _ r h => exec_regsKept h r

/-- Settles O15, one piece of state after the other. -/
theorem eachPieceOfStateHasItsWriters : Obligations.EachPieceOfStateHasItsWriters := by
  intro i s t h
  obtain ⟨hkeys, hcfg, hboot⟩ := exec_keys_cfg_bootOpen h
  exact ⟨exec_index_eq h, exec_record_eq h, exec_stack_eq h, exec_dt_eq h, exec_st_eq h,
    fun hk => ⟨exec_mem_eq h hk, State.readByte_congr (exec_mem_eq h hk) hcfg⟩,
    exec_screen_eq h, exec_dirty h, hkeys, hcfg, hboot, exec_draws_eq h⟩

/-! ## PC (R24) -/

theorem zextAddr_eq_ofNat (nnn : Addr) : zextAddr nnn = BitVec.ofNat 16 nnn.toNat :=
  BitVec.eq_of_toNat_eq (by rw [zextAddr_toNat, BitVec.toNat_ofNat]; omega)

/-- The sum of R122 fits 16 bits. -/
theorem jpV0Target_toNat (nnn : Addr) (b : Byte) :
    (zextAddr nnn + zextByte b).toNat = nnn.toNat + b.toNat := by
  rw [BitVec.toNat_add, zextAddr_toNat, zextByte, BitVec.toNat_setWidth]
  omega

/-- PC0, the address of the instruction (R70). -/
theorem pc_eq_pc0 (s : State) : s.pc = s.pc - 2 + 2 := (BitVec.sub_add_cancel s.pc 2).symm

theorem State.sp_ne_full {s : State} (room : s.sp.val < 16) : s.sp ≠ 16 :=
  fun e => absurd room (by rw [e]; decide)
theorem State.sp_ne_empty {s : State} (held : 0 < s.sp.val) : s.sp ≠ 0 :=
  fun e => absurd held (by rw [e]; decide)

theorem exec_ldVxK_pc {x : Nibble} {s t : State} (h : exec (.ldVxK x) s = .next t) :
    t.pc = if s.keyInRange then s.pc else s.pc - 2 := by
  split_ifs with hkey
  · obtain ⟨k, hscan⟩ := Option.isSome_iff_exists.1 (s.firstPressed_isSome.2 hkey)
    cases (exec_ldVxK_of_some x hscan).symm.trans h
    rfl
  · cases (exec_ldVxK_of_none x (State.firstPressed_eq_none hkey)).symm.trans h
    rfl

theorem exec_skip_pc {i : Instr} {s t : State} (h : exec i s = .next t) (hi : i.kind ∈ skipKinds) :
    t.pc = pcAfter i (s.pc - 2) s := by
  obtain ⟨u, hu, -, -, hpc, -⟩ := skipsStepOverOneSlot i s hi
  cases hu.symm.trans h
  exact hpc

/-- Settles O12: the branching kinds one by one, every other one by the shapes that keep PC. -/
theorem pcAfterEachKind : Obligations.PcAfterEachKind := by
  intro i s t h
  cases i with
  | jp nnn => cases h; exact zextAddr_eq_ofNat nnn
  | jpV0 nnn =>
    cases h
    refine BitVec.eq_of_toNat_eq ((jpV0Target_toNat nnn (s.reg 0)).trans ?_)
    rw [pcAfter, BitVec.toNat_ofNat]
    omega
  | call nnn =>
    rcases s.room_or_full with room | full
    · cases (exec_call_of_room nnn room).symm.trans h
      rw [pcAfter, if_neg (State.sp_ne_full room)]
      exact zextAddr_eq_ofNat nnn
    · cases (exec_call_of_full nnn full).symm.trans h
      rw [pcAfter, if_pos full]
      exact pc_eq_pc0 s
  | ret mid =>
    rcases s.empty_or_held with empty | held
    · cases (exec_ret_of_empty mid empty).symm.trans h
      rw [pcAfter, if_pos empty]
      exact pc_eq_pc0 s
    · cases (exec_ret_of_held mid held).symm.trans h
      rw [pcAfter, if_neg (State.sp_ne_empty held)]
      rfl
  | ldVxK x =>
    rw [exec_ldVxK_pc h, pcAfter, ← pc_eq_pc0]
  | seImm _ _ | sneImm _ _ | seReg _ _ _ | sneReg _ _ _ | skp _ | sknp _ =>
    exact exec_skip_pc h (by simp [skipKinds, Instr.kind])
  | nop op => cases h; exact pc_eq_pc0 s
  | _ => exact (exec_pc_eq h (by simp [pcKinds, skipKinds, Instr.kind])).trans (pc_eq_pc0 s)

end Sys2Proof.Machine
end

section
/-!
PROOFS. The display (42_display.md R140 to R143), and the values of VF (10_state.md R22). A loop of
a draw is described by the mask of the pixels it toggles: `Draws m acc res` says that `res` is `acc`
XORed with the mask `m` and reports a collision where `m` fell on an on pixel. Loops whose masks do
not meet compose.
-/

namespace Sys2Proof.Machine

/-! ## Drawing a mask (R142) -/

/-- `res` is `acc` with the pixels of `m` toggled, and a collision added when one of them was on. -/
def Draws (m : Nat → Nat → Bool) (acc res : FrameBuffer × Bool) : Prop :=
  (∀ qx qy, pixelAt res.1 qx qy = (pixelAt acc.1 qx qy ^^ m qx qy)) ∧
  (res.2 = true ↔ acc.2 = true ∨ ∃ qx qy, pixelAt acc.1 qx qy = true ∧ m qx qy = true)

section
variable {m m₁ m₂ : Nat → Nat → Bool} {acc mid res : FrameBuffer × Bool}

theorem Draws.refl (acc : FrameBuffer × Bool) (hm : ∀ qx qy, m qx qy = false) :
    Draws m acc acc := by
  constructor <;> simp [hm]

theorem Draws.congr (h : Draws m₁ acc res) (hm : ∀ qx qy, m qx qy = m₁ qx qy) :
    Draws m acc res := by
  rwa [show m = m₁ from funext₂ hm]

/-- Two draws of masks that share no pixel are a draw of both masks together. -/
theorem Draws.trans (h₁ : Draws m₁ acc mid) (h₂ : Draws m₂ mid res)
    (apart : ∀ qx qy, m₁ qx qy = true → m₂ qx qy = false)
    (hm : ∀ qx qy, m qx qy = (m₁ qx qy || m₂ qx qy)) : Draws m acc res := by
  obtain ⟨pix₁, hit₁⟩ := h₁
  obtain ⟨pix₂, hit₂⟩ := h₂
  have later : ∀ qx qy, m₂ qx qy = true → pixelAt mid.1 qx qy = pixelAt acc.1 qx qy := by
    intro qx qy h
    have h₁ : m₁ qx qy = false := by
      by_contra h₁
      exact absurd (apart qx qy (eq_true_of_ne_false h₁)) (by simp [h])
    rw [pix₁, h₁, Bool.xor_false]
  constructor
  · intro qx qy
    rw [pix₂, pix₁, hm]
    cases h : m₁ qx qy
    · simp
    · simp [apart qx qy h]
  · rw [hit₂, hit₁, or_assoc]
    refine or_congr_right ?_
    constructor
    · rintro (⟨qx, qy, on, h⟩ | ⟨qx, qy, on, h⟩)
      · exact ⟨qx, qy, on, by rw [hm, h, Bool.true_or]⟩
      · exact ⟨qx, qy, (later qx qy h).symm.trans on, by rw [hm, h, Bool.or_true]⟩
    · rintro ⟨qx, qy, on, h⟩
      rw [hm, Bool.or_eq_true] at h
      rcases h with h | h
      · exact .inl ⟨qx, qy, on, h⟩
      · exact .inr ⟨qx, qy, (later qx qy h).trans on, h⟩

end

theorem draws_drawPixel {px py : Nat} (hx : px < 64) (hy : py < 32) (acc : FrameBuffer × Bool) :
    Draws (fun qx qy => decide (qx = px ∧ qy = py)) acc (drawPixel px py acc) := by
  constructor
  · intro qx qy
    rw [drawPixel, pixelAt_togglePixel]
    simp [hx, hy]
  · simp [drawPixel]

/-! ## The loops (R141, R142) -/

/-- The pixels of the first `n` columns of the sprite row `row` at `x0` in line `py`, as far as
they are on the screen. -/
def rowMask (row : Byte) (x0 py n qx qy : Nat) : Bool :=
  decide (qy = py ∧ qy < 32 ∧ x0 ≤ qx ∧ qx < x0 + n ∧ qx < 64) && spriteBit row (qx - x0)

theorem rowMask_succ (row : Byte) (x0 py c qx qy : Nat) : rowMask row x0 py (c + 1) qx qy =
    (rowMask row x0 py c qx qy ||
      (decide (qx = x0 + c ∧ qy = py ∧ qy < 32 ∧ qx < 64) && spriteBit row c)) := by
  by_cases e : qx = x0 + c
  · subst e; simp [rowMask]
  · have hlt : qx < x0 + (c + 1) ↔ qx < x0 + c := by omega
    simp [rowMask, e, hlt]

theorem draws_drawColumns (row : Byte) (x0 : Nat) {py : Nat} (hy : py < 32)
    (acc : FrameBuffer × Bool) (n : Nat) :
    Draws (rowMask row x0 py n) acc (drawColumns row x0 py n acc) := by
  induction n with
  | zero =>
    exact .refl acc fun qx qy => by
      rw [rowMask, decide_eq_false (by omega), Bool.false_and]
  | succ c ih =>
    simp only [drawColumns]
    split_ifs with clipped bit
    · refine ih.congr fun qx qy => ?_
      rw [rowMask_succ, decide_eq_false (by omega), Bool.false_and, Bool.or_false]
    · refine ih.trans (draws_drawPixel (by omega) hy _) (fun qx qy h => ?apart) fun qx qy => ?both
      case apart =>
        simp only [rowMask, Bool.and_eq_true, decide_eq_true_eq] at h
        exact decide_eq_false (by omega)
      case both =>
        rw [rowMask_succ, bit, Bool.and_true]
        congr 2
        apply propext
        omega
    · refine ih.congr fun qx qy => ?_
      rw [rowMask_succ, eq_false_of_ne_true bit, Bool.and_false, Bool.or_false]

/-- The pixels on the screen of the first `n` rows of the sprite at I. -/
def spriteMask (s : State) (x0 y0 n qx qy : Nat) : Bool :=
  decide (qx < 64 ∧ qy < 32) && s.spriteOn x0 y0 n qx qy

theorem spriteMask_succ (s : State) (x0 y0 r qx qy : Nat) : spriteMask s x0 y0 (r + 1) qx qy =
    (spriteMask s x0 y0 r qx qy ||
      rowMask (s.readByte (s.operandAddr r)) x0 (y0 + r) 8 qx qy) := by
  by_cases e : qy = y0 + r
  · subst e
    have upper : y0 + r < y0 + (r + 1) := by omega
    simp [spriteMask, State.spriteOn, rowMask, spriteBit, State.operandAddr, upper, Bool.and_assoc,
      Bool.and_comm, Bool.and_left_comm]
  · have hlt : qy < y0 + (r + 1) ↔ qy < y0 + r := by omega
    simp [spriteMask, State.spriteOn, rowMask, e, hlt]

theorem draws_drawRows (s : State) (x0 y0 : Nat) (acc : FrameBuffer × Bool) (n : Nat) :
    Draws (spriteMask s x0 y0 n) acc (drawRows s x0 y0 n acc) := by
  induction n with
  | zero =>
    exact .refl acc fun qx qy => by
      rw [spriteMask, State.spriteOn, decide_eq_false (p := x0 ≤ qx ∧ _) (by omega), Bool.false_and,
        Bool.and_false]
  | succ r ih =>
    simp only [drawRows]
    split_ifs with clipped
    · refine ih.congr fun qx qy => ?_
      rw [spriteMask_succ, rowMask, decide_eq_false (by omega), Bool.false_and, Bool.or_false]
    · refine ih.trans (draws_drawColumns _ x0 (by omega) _ 8) (fun qx qy h => ?apart)
        fun qx qy => ?both
      case apart =>
        simp only [spriteMask, State.spriteOn, Bool.and_eq_true, decide_eq_true_eq] at h
        rw [rowMask, decide_eq_false (by omega), Bool.false_and]
      case both => exact spriteMask_succ s x0 y0 r qx qy

/-! ## The closed form of a draw (R142) -/

section
variable (s : State) (x0 y0 n : Nat)

theorem drawSprite_draws :
    Draws (spriteMask s x0 y0 n) (s.fb, false) (drawRows s x0 y0 n (s.fb, false)) :=
  draws_drawRows s x0 y0 (s.fb, false) n

theorem pixelAt_drawSprite {px py : Nat} (hx : px < 64) (hy : py < 32) :
    pixelAt (s.drawSprite x0 y0 n).fb px py = (pixelAt s.fb px py ^^ s.spriteOn x0 y0 n px py) := by
  refine ((drawSprite_draws s x0 y0 n).1 px py).trans ?_
  rw [spriteMask, decide_eq_true ⟨hx, hy⟩, Bool.true_and]

theorem drawRows_collision_iff :
    (drawRows s x0 y0 n (s.fb, false)).2 = true ↔ s.collides x0 y0 n := by
  rw [(drawSprite_draws s x0 y0 n).2]
  simp only [spriteMask, Bool.and_eq_true, decide_eq_true_eq, Bool.false_eq_true, false_or]
  constructor
  · rintro ⟨px, py, on, ⟨hx, hy⟩, bit⟩
    exact ⟨⟨px, hx⟩, ⟨py, hy⟩, on, bit⟩
  · rintro ⟨px, py, on, bit⟩
    exact ⟨px, py, on, ⟨px.isLt, py.isLt⟩, bit⟩

theorem reg_vf_drawSprite : ((s.drawSprite x0 y0 n).reg 15).toNat =
    if s.collides x0 y0 n then 1 else 0 := by
  have hvf : (s.drawSprite x0 y0 n).reg 15 = flagByte (drawRows s x0 y0 n (s.fb, false)).2 :=
    State.reg_setReg_same s vf _
  rw [hvf, flagByte_toNat]
  exact if_congr (drawRows_collision_iff s x0 y0 n) rfl rfl

theorem reg_drawSprite {r : Nibble} (hr : r ≠ 15) : (s.drawSprite x0 y0 n).reg r = s.reg r :=
  State.reg_setReg_other s _ hr
end

/-- All a completed DRW can have done. -/
theorem exec_drw_next {x y n : Nibble} {s t : State} (h : exec (.drw x y n) s = .next t) :
    t = s.drawSprite ((s.reg x).toNat % 64) ((s.reg y).toNat % 32) n.toNat :=
  (Host.Outcome.next.inj ((exec_drw_of_inRange (operandInRange_of_exec h)).symm.trans h)).symm

/-- Settles O39: the loops are the mask of the sprite, by `draws_drawRows`. -/
theorem drwXorsTheSpriteAndFlagsCollision : Obligations.DrwXorsTheSpriteAndFlagsCollision :=
  fun x y n s => ⟨decode_drw x y n, fun h => ⟨_, exec_drw_of_inRange h,
    fun _ _ => pixelAt_drawSprite s _ _ _, reg_vf_drawSprite s _ _ _,
    fun _ => reg_drawSprite s _ _ _, rfl, rfl⟩⟩

/-- A draw keeps memory and I, and so the sprite. -/
theorem spriteOn_drawSprite (s : State) (a b c x0 y0 n px py : Nat) :
    (s.drawSprite a b c).spriteOn x0 y0 n px py = s.spriteOn x0 y0 n px py := rfl

/-- Settles O40: the second draw has the origin and the sprite of the first, and XOR with one mask
twice is none; what the second finds on is what the first turned on. -/
theorem drawingTwiceRestores : Obligations.DrawingTwiceRestores := by
  intro x y n s t u hx hy hst htu
  obtain rfl := exec_drw_next hst
  obtain rfl := exec_drw_next htu
  rw [reg_drawSprite s _ _ _ hx, reg_drawSprite s _ _ _ hy]
  generalize (s.reg x).toNat % 64 = x0, (s.reg y).toNat % 32 = y0, n.toNat = rows
  constructor
  · refine frameBuffer_ext fun px py hpx hpy => ?_
    rw [pixelAt_drawSprite _ _ _ _ hpx hpy, pixelAt_drawSprite _ _ _ _ hpx hpy, spriteOn_drawSprite,
      Bool.xor_assoc, Bool.xor_self, Bool.xor_false]
  · rw [reg_vf_drawSprite]
    have hflag : (if (s.drawSprite x0 y0 rows).collides x0 y0 rows then 1 else 0) = 1 ↔
        (s.drawSprite x0 y0 rows).collides x0 y0 rows := by
      split_ifs with h <;> simp [h]
    rw [hflag]
    refine exists_congr fun px => exists_congr fun py => and_congr_left fun bit => ?_
    rw [spriteOn_drawSprite] at bit
    rw [pixelAt_drawSprite _ _ _ _ px.isLt py.isLt, bit, Bool.xor_true, Bool.not_eq_true']

/-- Settles O38: the blank screen has no pixel on. -/
theorem clsBlanksTheScreen : Obligations.ClsBlanksTheScreen := fun mid _ =>
  ⟨decode_cls mid, _, rfl, pixelAt_blankScreen, rfl, rfl⟩

/-! ## VF (R22) -/

/-- What an execution that ended in the two writes of R111 left in VF. -/
theorem vf_of_wroteFlag {o : Host.Outcome State Fault Refusal} {s t : State} {x : Nibble}
    {flag result : Nat} (h : o = .next t)
    (hw : ∃ u, o = .next u ∧ wroteFlagAndResult x flag result s u) (hx : x ≠ 15) :
    (t.reg 15).toNat = flag := by
  obtain ⟨u, hu, -, wrote, -⟩ := hw
  cases hu.symm.trans h
  exact (wrote hx).2

/-- Settles O13: without a flag VF is a register like the others; the five ALU kinds by what they
wrote (O23 to O27), DRW by its collision. -/
theorem vfChangesOnlyAsFlagOrDestination : Obligations.VfChangesOnlyAsFlagOrDestination := by
  intro i s t h
  refine ⟨fun noFlag notNamed => exec_regsKept h 15 notNamed fun _ => noFlag, ?add, ?sub, ?shr,
    ?subn, ?shl, ?drw⟩
  case add => rintro x y rfl hx; exact vf_of_wroteFlag h (addRegSumAndCarry x y s).2 hx
  case sub => rintro x y rfl hx; exact vf_of_wroteFlag h (subDifferenceAndStrictFlag x y s).2 hx
  case shr => rintro x y rfl hx; exact vf_of_wroteFlag h (shrHalvesAndKeepsTheBit x y s).2 hx
  case subn => rintro x y rfl hx; exact vf_of_wroteFlag h (subnDifferenceAndStrictFlag x y s).2 hx
  case shl => rintro x y rfl hx; exact vf_of_wroteFlag h (shlDoublesAndKeepsTheBit x y s).2 hx
  case drw => rintro x y n rfl; rw [exec_drw_next h]; exact reg_vf_drawSprite s _ _ _

end Sys2Proof.Machine
end

section
/-!
PROOFS. The instructions that write one register, PC, I or a timer (40_alu.md R100 to R105, R112;
41_control_flow.md R122 to R127; 43_keypad.md R151, R152; 44_timer_index_memory.md R160 to R165).
-/

namespace Sys2Proof.Machine

/-! ## One register (R100 to R105, R112, R160) -/

/-- An execution that ends in one register write completes with the byte there and the frame of one
register. -/
theorem completes_of_setReg {o : Host.Outcome State Fault Refusal} {s : State} {x : Nibble}
    {b : Byte} {P : Byte → Prop} (ho : o = .next (s.setReg x b)) (hb : P b) :
    ∃ t, o = .next t ∧ P (t.reg x) ∧ onlyReg x s t :=
  ⟨_, ho, by rwa [State.reg_setReg_same], onlyReg_setReg s x b⟩

/-- Settles O21: each ends in one register write. -/
theorem immediateFormsWriteVx : Obligations.ImmediateFormsWriteVx := fun x kk s =>
  ⟨⟨decode_ldImm x kk, completes_of_setReg (P := (· = kk)) rfl rfl⟩,
    ⟨decode_addImm x kk, completes_of_setReg
      (P := fun b => b.toNat = ((s.reg x).toNat + kk.toNat) % 256) rfl (addResult_toNat _ _)⟩⟩

/-- Settles O22: each ends in one register write, of a word combined bit by bit. -/
theorem copyAndLogicWorkBitwise : Obligations.CopyAndLogicWorkBitwise := fun x y s =>
  ⟨⟨decode_ldReg x y, completes_of_setReg (P := (· = s.reg y)) rfl rfl⟩,
    ⟨decode_or x y, completes_of_setReg
      (P := fun r => ∀ b, r.getLsbD b = ((s.reg x).getLsbD b || (s.reg y).getLsbD b)) rfl
      fun _ => BitVec.getLsbD_or⟩,
    ⟨decode_and x y, completes_of_setReg
      (P := fun r => ∀ b, r.getLsbD b = ((s.reg x).getLsbD b && (s.reg y).getLsbD b)) rfl
      fun _ => BitVec.getLsbD_and⟩,
    ⟨decode_xor x y, completes_of_setReg
      (P := fun r => ∀ b, r.getLsbD b = ((s.reg x).getLsbD b ^^ (s.reg y).getLsbD b)) rfl
      fun _ => BitVec.getLsbD_xor⟩⟩

/-- Settles O28: a register write of the masked draw, and the counter beside it. -/
theorem rndMasksAFreshDraw : Obligations.RndMasksAFreshDraw := by
  refine fun x kk s => ⟨decode_rnd x kk, _, rfl, fun b => ?masked, rfl, rfl,
    fun r hr => s.reg_setReg_other _ hr⟩
  case masked =>
    have hx := s.reg_setReg_same x (Config.freeByte s.draws &&& kk)
    exact (congrArg (·.getLsbD b) hx).trans BitVec.getLsbD_and

/-- Settles O43: one whole-byte write each. -/
theorem timerAccessMovesWholeBytes : Obligations.TimerAccessMovesWholeBytes := fun x s =>
  ⟨⟨decode_ldVxDt x, completes_of_setReg (P := (· = s.dt)) rfl rfl⟩,
    ⟨decode_ldDtVx x, _, rfl, rfl, rfl⟩, ⟨decode_ldStVx x, _, rfl, rfl, rfl⟩⟩

/-! ## PC and I (R122 to R127, R163 to R165) -/

/-- Settles O30: the sum of a 12-bit and an 8-bit number does not wrap. -/
theorem jpV0AddsV0 : Obligations.JpV0AddsV0 := fun nnn s =>
  ⟨decode_jpV0 nnn, _, rfl, jpV0Target_toNat nnn (s.reg 0), rfl⟩

/-- A skip on a condition is the state with an extra 2 on PC when it holds. -/
theorem skipIf_eq_of_iff {s : State} {c : Bool} {p : Prop} [Decidable p] (h : c = true ↔ p) :
    s.skipIf c = { s with pc := if p then s.pc + 2 else s.pc } := by
  rw [s.skipIf_eq c, if_congr h rfl rfl]

/-- Settles O37, each condition by the meaning of its test. -/
theorem eachSkipHasItsCondition : Obligations.EachSkipHasItsCondition := by
  have eq_iff (a b : Byte) : (a == b) = true ↔ a.toNat = b.toNat :=
    beq_iff_eq.trans BitVec.toNat_inj.symm
  have ne_iff (a b : Byte) : (a != b) = true ↔ a.toNat ≠ b.toNat :=
    bne_iff_ne.trans BitVec.toNat_inj.symm.not
  refine ⟨fun x kk s => ⟨⟨decode_seImm x kk, ?_⟩, decode_sneImm x kk, ?_⟩,
    fun x y low s => ⟨⟨decode_seReg x y low, ?_⟩, decode_sneReg x y low, ?_⟩,
    fun x s => ⟨⟨decode_skp x, ?_⟩, decode_sknp x, ?_⟩⟩
  · exact congrArg _ (skipIf_eq_of_iff (eq_iff _ _))
  · exact congrArg _ (skipIf_eq_of_iff (ne_iff _ _))
  · exact congrArg _ (skipIf_eq_of_iff (eq_iff _ _))
  · exact congrArg _ (skipIf_eq_of_iff (ne_iff _ _))
  · exact congrArg _ (skipIf_eq_of_iff (by rw [State.key_keyIndex]))
  · exact congrArg _ (skipIf_eq_of_iff (by rw [State.key_keyIndex, Bool.not_eq_true']))

theorem zextByte_toNat (b : Byte) : (zextByte b).toNat = b.toNat :=
  BitVec.toNat_setWidth_of_le (by decide)

/-- The address of a glyph fits 16 bits, since FONT_BASE is at most 432. -/
theorem glyphAddr_toNat (c : Config) (d : Byte) :
    (glyphAddr c d).toNat = c.fontBase.val + 5 * d.toNat := by
  rw [glyphAddr, BitVec.toNat_ofNat]
  omega

/-- Settles O44, from the numbers of the three values that I can take. -/
theorem indexInstructionsSetI : Obligations.IndexInstructionsSetI := by
  refine ⟨fun nnn s => ⟨decode_ldI nnn, _, rfl, zextAddr_toNat nnn, rfl⟩,
    fun x s => ⟨⟨decode_addI x, _, rfl, ?sum, rfl⟩,
      decode_ldF x, _, rfl, glyphAddr_toNat s.cfg (s.reg x), rfl⟩⟩
  case sum => rw [State.setIndex_index, BitVec.toNat_add, zextByte_toNat]

end Sys2Proof.Machine
end

section
/-!
PROOFS. CALL and RET (41_control_flow.md R121, R123), fatal entry as a tick (60_exceptions.md R194),
and the key wait (43_keypad.md R153, R154).
-/

namespace Sys2Proof.Machine

/-! ## The return stack (R26, R121, R123) -/

/-- Settles O31, at each depth of the stack. -/
theorem callPushesOrOverflows : Obligations.CallPushesOrOverflows := by
  refine fun nnn s => ⟨decode_call nnn, fun room => ⟨_, exec_call_of_room nnn room, ?pushed, ?kept,
    rfl, zextAddr_toNat nnn, rfl⟩, exec_call_of_full nnn⟩
  case pushed => exact Vector.getElem_set_self _
  case kept => exact fun k hk => Vector.getElem_set_ne room _ (Ne.symm hk)

/-- Settles O32, at each depth of the stack. -/
theorem retPopsOrUnderflows : Obligations.RetPopsOrUnderflows := by
  refine fun mid s => ⟨decode_ret mid,
    fun held => ⟨_, exec_ret_of_held mid held, rfl, ?popped, rfl⟩, exec_ret_of_empty mid⟩
  case popped =>
    intro k hk
    have hslot : s.sp.val - 1 = k.val := by omega
    simp only [State.setPc_pc, State.top, hslot]

/-- Settles O35: the slot that RET reads is the one CALL wrote. -/
theorem callThenRetReturns : Obligations.CallThenRetReturns := by
  intro nnn mid s room
  refine ⟨_, _, exec_call_of_room nnn room, exec_ret_of_held mid (Nat.succ_pos _), ?pushed, ?kept,
    ?frame⟩
  case pushed => exact Vector.getElem_set_self _
  case kept => exact fun k hk => Vector.getElem_set_ne room _ (Ne.symm hk)
  case frame =>
    exact congrArg (State.setPc { s with stack := s.stack.set s.sp.val s.pc room })
      (Vector.getElem_set_self room)

/-! ## Fatal entry as a tick (R194) -/

theorem kind_eq_call {i : Instr} (h : i.kind = .call) : ∃ nnn, i = .call nnn := by
  cases i with
  | call nnn => exact ⟨nnn, rfl⟩
  | _ => cases h

theorem kind_eq_ret {i : Instr} (h : i.kind = .ret) : ∃ mid, i = .ret mid := by
  cases i with
  | ret mid => exact ⟨mid, rfl⟩
  | _ => cases h

/-- A fatal condition raised in a tick records the address and the word of the instruction. -/
theorem raiseFatal_afterFetch (s : State) (c : Status) (op : Word) : s.afterFetch.raiseFatal c op =
    { s with status := c, faultPc := s.pc, faultOp := op, pc := s.pc + 2, bootOpen := false } := by
  rw [State.raiseFatal, State.afterFetch_pc, BitVec.add_sub_cancel]
  rfl

/-- Settles O34: the word recorded is the fetched one, by `encode_decode`. -/
theorem fatalTickRecordsAndSuppresses : Obligations.FatalTickRecordsAndSuppresses := by
  intro s hrun hrange
  have tick := step_of_run hrun (s.canFetch_iff.2 hrange)
  have word := encode_decode s.fetchWord
  constructor
  · intro hk full
    obtain ⟨nnn, hi⟩ := kind_eq_call hk
    rw [hi] at tick word
    rw [tick, exec_call_of_full (s := s.afterFetch) nnn full, word, raiseFatal_afterFetch]
  · intro hk empty
    obtain ⟨mid, hi⟩ := kind_eq_ret hk
    rw [hi] at tick word
    rw [tick, exec_ret_of_empty (s := s.afterFetch) mid empty, word, raiseFatal_afterFetch]

/-! ## The key wait (R153, R154) -/

theorem lastScannedKey_eq (w : WaitKeyLast) :
    lastScannedKey w = if w = .literal then 0xE else 0xF := by cases w <;> rfl

/-- The scan ascends from 0, so the lowest pressed key in range is the one found. -/
theorem State.firstPressed_eq_some {s : State} {k : Fin 16}
    (hk : k.val ≤ lastScannedKey s.cfg.waitKeyLast) (pressed : s.keys[k.val] = true)
    (lowest : ∀ j : Fin 16, j < k → s.keys[j.val] = false) : s.firstPressed = some k.val := by
  have key_ofNat (j : Nat) (hj : j < 16) : s.key (BitVec.ofNat 4 j) = s.keys[j] := by
    have e : j % 16 = j := Nat.mod_eq_of_lt hj
    simp [State.key, e]
  rw [State.firstPressed, List.find?_range_eq_some]
  refine ⟨(key_ofNat k.val k.isLt).trans pressed, List.mem_range.2 (Nat.lt_succ_of_le hk),
    fun j hj => ?_⟩
  rw [key_ofNat j (hj.trans k.isLt), lowest ⟨j, hj.trans k.isLt⟩ hj]
  rfl

/-- Settles O41, from what the scan finds in either case. -/
theorem waitKeyTakesTheLowestOrRewinds : Obligations.WaitKeyTakesTheLowestOrRewinds := by
  refine fun x s => ⟨decode_ldVxK x, fun k hk pressed lowest => ?lowest, fun released => ?rewind⟩
  case lowest =>
    rw [← lastScannedKey_eq] at hk
    refine completes_of_setReg (P := fun b => b.toNat = k.val)
      (exec_ldVxK_of_some x (State.firstPressed_eq_some hk pressed lowest)) ?_
    rw [BitVec.toNat_ofNat]
    omega
  case rewind =>
    refine exec_ldVxK_of_none x (State.firstPressed_eq_none ?_)
    rintro ⟨k, hk, pressed⟩
    rw [lastScannedKey_eq] at hk
    exact absurd pressed (by rw [released k hk]; decide)

/-! ## Events that change nothing -/

/-- An event that leaves a state as it is may be delivered any number of times. -/
theorem deliverAll_replicate_fixed {e : Event} {s : State} {r : Reply}
    (h : deliver e s = .next (s, r)) (n : Nat) : deliverAll (List.replicate n e) s = .next s := by
  induction n with
  | zero => rfl
  | succ n ih => rw [List.replicate_succ, deliverAll, h]; exact ih

theorem deliver_cpuTick_of_step {s t : State} (h : step s = .next t) :
    deliver .cpuTick s = .next (t, tickReply s) := by
  rw [deliver, tickEvent, h]

/-- With the boot bit closed, the fetch changes PC alone. -/
theorem State.setPc_afterFetch {s : State} (hboot : s.bootOpen = false) :
    s.afterFetch.setPc s.pc = s := by
  rw [State.setPc, State.afterFetch, ← hboot]

/-- Settles O42: a tick advances PC by 2 and the rewind takes it back. -/
theorem idleKeyWaitChangesNothing : Obligations.IdleKeyWaitChangesNothing := by
  intro n x s hrun hboot hrange hi idle
  have tick : step s = .next s := by
    rw [step_of_run hrun (s.canFetch_iff.2 hrange), hi,
      exec_ldVxK_of_none x (State.firstPressed_eq_none (s := s.afterFetch) idle),
      State.afterFetch_pc, BitVec.add_sub_cancel, State.setPc_afterFetch hboot]
  exact deliverAll_replicate_fixed (deliver_cpuTick_of_step tick) n

end Sys2Proof.Machine
end

section
/-!
PROOFS. Noninterference (10_state.md R29, R30, R33; 60_exceptions.md R200, R202). The state a
program cannot see is laid over a state by `State.overlay`: the operations instructions are written
from commute with it, so an execution does too, up to what it writes there itself.
-/

namespace Sys2Proof.Machine

/-! ## The overlay -/

/-- `s` with the timers, DIRTY, FAULT_PC and FAULT_OP of `o`: all that no instruction but LD_VX_DT
reads. -/
def State.overlay (s o : State) : State :=
  { s with dt := o.dt, st := o.st, dirty := o.dirty, faultPc := o.faultPc, faultOp := o.faultOp }

section
variable (s o : State)

theorem State.overlay_writeFlagAndResult (x : Nibble) (f : Bool) (b : Byte) :
    (s.overlay o).writeFlagAndResult x f b = (s.writeFlagAndResult x f b).overlay o := by
  cases hord : s.cfg.vfDestOrder <;> simp [State.writeFlagAndResult, State.overlay, hord] <;> rfl

theorem State.overlay_skipIf (c : Bool) : (s.overlay o).skipIf c = (s.skipIf c).overlay o := by
  cases c <;> rfl

theorem State.overlay_writeBytes (l : List Byte) : ∀ (s : State) (a : Nat),
    (s.overlay o).writeBytes a l = (s.writeBytes a l).overlay o := by
  induction l with
  | nil => exact fun _ _ => rfl
  | cons b rest ih => exact fun s a => ih (s.writeByte a b) (a + 1)

theorem State.overlay_storeRegs (a n : Nat) :
    (s.overlay o).storeRegs a n = (s.storeRegs a n).overlay o := by
  induction n with
  | zero => rfl
  | succ n ih => simp only [State.storeRegs, ih]; rfl

theorem State.overlay_loadRegs (a n : Nat) :
    (s.overlay o).loadRegs a n = (s.loadRegs a n).overlay o := by
  induction n with
  | zero => rfl
  | succ n ih => simp only [State.loadRegs, ih]; rfl

theorem drawRows_overlay (x0 y0 n : Nat) (acc : FrameBuffer × Bool) :
    drawRows (s.overlay o) x0 y0 n acc = drawRows s x0 y0 n acc := by
  induction n with
  | zero => rfl
  | succ n ih => simp only [drawRows, ih]; rfl
end

/-- An execution runs alike under an overlay, which keeps DT where the instruction reads it. -/
theorem exec_overlay {i : Instr} {s t : State} (o : State) (hdt : i.kind = .ldVxDt → o.dt = s.dt)
    (h : exec i s = .next t) : ∃ u, exec i (s.overlay o) = .next u ∧ u = t.overlay u := by
  have inRange := operandInRange_of_exec h
  cases i with
  | addReg _ _ | sub _ _ | shr _ _ | subn _ _ | shl _ _ =>
    cases h; exact ⟨_, congrArg Host.Outcome.next (s.overlay_writeFlagAndResult o _ _ _), rfl⟩
  | seImm _ _ | sneImm _ _ | seReg _ _ _ | sneReg _ _ _ | skp _ | sknp _ =>
    cases h; exact ⟨_, congrArg Host.Outcome.next (s.overlay_skipIf o _), rfl⟩
  | call nnn =>
    rcases s.room_or_full with room | full
    · cases (exec_call_of_room nnn room).symm.trans h
      exact ⟨_, exec_call_of_room (s := s.overlay o) nnn room, rfl⟩
    · cases (exec_call_of_full nnn full).symm.trans h
      exact ⟨_, exec_call_of_full (s := s.overlay o) nnn full, rfl⟩
  | ret mid =>
    rcases s.empty_or_held with empty | held
    · cases (exec_ret_of_empty mid empty).symm.trans h
      exact ⟨_, exec_ret_of_empty (s := s.overlay o) mid empty, rfl⟩
    · cases (exec_ret_of_held mid held).symm.trans h
      exact ⟨_, exec_ret_of_held (s := s.overlay o) mid held, rfl⟩
  | ldVxK x =>
    cases hscan : s.firstPressed with
    | none =>
      cases (exec_ldVxK_of_none x hscan).symm.trans h
      exact ⟨_, exec_ldVxK_of_none (s := s.overlay o) x hscan, rfl⟩
    | some k =>
      cases (exec_ldVxK_of_some x hscan).symm.trans h
      exact ⟨_, exec_ldVxK_of_some (s := s.overlay o) x hscan, rfl⟩
  | drw x y n =>
    cases (exec_drw_of_inRange inRange).symm.trans h
    refine ⟨_, exec_drw_of_inRange (s := s.overlay o) inRange, ?_⟩
    simp only [State.drawSprite, drawRows_overlay]
    rfl
  | ldB x =>
    cases (exec_ldB_of_inRange inRange).symm.trans h
    exact ⟨_, exec_ldB_of_inRange (s := s.overlay o) inRange, by rw [State.overlay_writeBytes]; rfl⟩
  | ldMemVx x =>
    cases (exec_ldMemVx_of_inRange inRange).symm.trans h
    exact ⟨_, exec_ldMemVx_of_inRange (s := s.overlay o) inRange, by
      rw [State.overlay_storeRegs]; rfl⟩
  | ldVxMem x =>
    cases (exec_ldVxMem_of_inRange inRange).symm.trans h
    exact ⟨_, exec_ldVxMem_of_inRange (s := s.overlay o) inRange, by
      rw [State.overlay_loadRegs]; rfl⟩
  | ldVxDt x =>
    cases h
    exact ⟨_, congrArg (fun b => Host.Outcome.next ((s.overlay o).setReg x b)) (hdt rfl), rfl⟩
  | _ => cases h; exact ⟨_, rfl, rfl⟩

/-- Settles O16: overlay the four pieces and keep the timer DT, which only LD_DT_VX writes, from a
register. -/
theorem hostOnlyStateNeverInfluences : Obligations.HostOnlyStateNeverInfluences := by
  intro i s t st d fp fo h
  obtain ⟨u, hu, hover⟩ :=
    exec_overlay (s := s) { s with st := st, dirty := d, faultPc := fp, faultOp := fo }
      (fun _ => rfl) h
  have hdt : u.dt = t.dt := by
    by_cases hk : i.kind = .ldDtVx
    · cases i with
      | ldDtVx x => cases h; cases hu; rfl
      | _ => cases hk
    · exact (exec_dt_eq hu hk).trans (exec_dt_eq h hk).symm
  refine ⟨u, hu, hover.trans ?_⟩
  rw [State.overlay, hdt]

/-! ## `timer_tick` beside an instruction (R200, R202) -/

theorem exec_call_timerTick {nnn : Addr} {s t : State} (h : exec (.call nnn) s = .next t) :
    exec (.call nnn) s.timerTick = .next t.timerTick := by
  rcases s.room_or_full with room | full
  · cases (exec_call_of_room nnn room).symm.trans h
    exact exec_call_of_room (s := s.timerTick) nnn room
  · cases (exec_call_of_full nnn full).symm.trans h
    exact exec_call_of_full (s := s.timerTick) nnn full

theorem exec_ret_timerTick {mid : Byte} {s t : State} (h : exec (.ret mid) s = .next t) :
    exec (.ret mid) s.timerTick = .next t.timerTick := by
  rcases s.empty_or_held with empty | held
  · cases (exec_ret_of_empty mid empty).symm.trans h
    exact exec_ret_of_empty (s := s.timerTick) mid empty
  · cases (exec_ret_of_held mid held).symm.trans h
    exact exec_ret_of_held (s := s.timerTick) mid held

/-- Settles O17: the ticked timers are an overlay that the instruction neither reads nor writes. -/
theorem timerTickCommutesWithInstructions : Obligations.TimerTickCommutesWithInstructions := by
  intro i s t hk h
  simp only [List.mem_cons, List.not_mem_nil, or_false, not_or] at hk
  obtain ⟨noRead, noDt, noSt⟩ := hk
  obtain ⟨u, hu, hover⟩ := exec_overlay s.timerTick (fun e => absurd e noRead) h
  change exec i s.timerTick = .next u at hu
  have hdt : u.dt = countDown t.dt := by rw [exec_dt_eq hu noDt, exec_dt_eq h noDt]; rfl
  have hst : u.st = countDown t.st := by rw [exec_st_eq hu noSt, exec_st_eq h noSt]; rfl
  have hdirty : u.dirty = t.dirty := by
    by_cases hk : i.kind ∈ [.cls, .drw]
    · rw [exec_dirty hu hk, exec_dirty h hk]
    · rw [(exec_screen_eq hu hk).2, (exec_screen_eq h hk).2]; rfl
  by_cases hstack : i.kind ∈ [.call, .ret]
  · cases i with
    | call nnn => exact exec_call_timerTick h
    | ret mid => exact exec_ret_timerTick h
    | _ => simp [Instr.kind] at hstack
  · obtain ⟨-, -, hpc, hop⟩ := exec_record_eq h hstack
    obtain ⟨-, -, hpc', hop'⟩ := exec_record_eq hu hstack
    rw [State.timerTick_faultPc, ← hpc] at hpc'
    rw [State.timerTick_faultOp, ← hop] at hop'
    rw [hu, hover, State.overlay, hdt, hst, hdirty, hpc', hop']
    rfl

end Sys2Proof.Machine
end

section
/-!
PROOFS. The invariant (10_state.md R30, R31; 60_exceptions.md R190, R194, R196;
70_reset_and_hazards.md R220, R222): what each of its three parts needs of an execution and of each
host event.
-/

namespace Sys2Proof.Machine

/-! ## Reset (R220) -/

/-- The reset state of a machine meets the invariant however many draws were taken. -/
theorem resetWith_inv (c : Config) (n : Nat) :
    ({ State.resetWith c with draws := n } : State).Inv :=
  ⟨State.resetWith_wf c, ⟨fun _ => ⟨rfl, rfl⟩, nofun, nofun, nofun⟩, fun _ => rfl⟩

/-- Settles O18: memory lists nothing, STATUS is RUN with an empty record, the boot is open. -/
theorem resetMeetsTheInvariant : Obligations.ResetMeetsTheInvariant :=
  ⟨fun c => resetWith_inv c 0, resetWith_inv Config.default 0⟩

/-! ## A tick -/

theorem exec_wf {i : Instr} {s t : State} (h : exec i s = .next t) (hwf : Memory.wf s.cfg s.mem) :
    Memory.wf t.cfg t.mem := by
  cases exec_effect h with
  | mem m _ keeps => exact keeps hwf
  | _ => exact hwf

/-- In RUN the record is all zero; a state in RUN that keeps it has a legal record. -/
theorem faultRecord_of_run {t : State} (hrun : t.status = .run) (hpc : t.faultPc = 0)
    (hop : t.faultOp = 0) : t.faultRecord := by
  refine ⟨fun _ => ⟨hpc, hop⟩, fun h => ?_, fun h => ?_, fun h => ?_⟩ <;> cases hrun.symm.trans h

/-- An execution from RUN ends in RUN or in a fatal condition with its own record (R194). -/
theorem exec_faultRecord {i : Instr} {s t : State} (h : exec i s = .next t) (hrun : s.status = .run)
    (hpc : s.faultPc = 0) (hop : s.faultOp = 0) : t.faultRecord := by
  cases exec_effect h with
  | overflow nnn hi full =>
    subst hi
    exact ⟨nofun, fun _ => ⟨full, congrArg Instr.kind (decode_call nnn), pc_eq_pc0 s⟩, nofun, nofun⟩
  | underflow mid hi empty =>
    subst hi
    exact ⟨nofun, nofun, fun _ => ⟨empty, congrArg Instr.kind (decode_ret mid), pc_eq_pc0 s⟩, nofun⟩
  | _ => exact faultRecord_of_run hrun hpc hop

theorem step_bootOpen {s t : State} (h : step s = .next t) (hrun : s.status = .run) :
    t.bootOpen = false := by
  obtain ⟨halted, -⟩ | ⟨-, -, hexec⟩ := step_next h
  · exact absurd hrun halted
  · exact (exec_keys_cfg_bootOpen hexec).2.2

/-- Settles O19: an execution keeps memory canonical and the record legal, and closes the boot bit;
in the halted state nothing changes. -/
theorem stepKeepsTheInvariant : Obligations.StepKeepsTheInvariant := by
  intro s t hinv h
  have ⟨hwf, hrec, _⟩ := hinv
  obtain ⟨-, rfl⟩ | ⟨hrun, -, hexec⟩ := step_next h
  · exact hinv
  · obtain ⟨hpc, hop⟩ := hrec.1 hrun
    refine ⟨exec_wf hexec hwf, exec_faultRecord hexec hrun hpc hop, fun hopen => ?_⟩
    rw [step_bootOpen h hrun] at hopen
    cases hopen

/-! ## The events (R203) -/

section
variable {s : State}

theorem hostReset_inv : s.hostReset.Inv := resetWith_inv s.cfg s.draws

theorem loadProgram_inv (bytes : List Byte) (hrun : s.status = .run) (hinv : s.Inv) :
    (s.loadProgram bytes).1.Inv := by
  obtain ⟨hwf, hrec, -⟩ := hinv
  obtain ⟨hpc, hop⟩ := hrec.1 hrun
  unfold State.loadProgram
  split
  · exact ⟨hwf, ⟨nofun, nofun, nofun, fun _ => ⟨rfl, rfl⟩⟩, nofun⟩
  · have hframe := s.writeBytes_frame bytes progBase
    refine ⟨State.writeBytes_wf bytes s progBase hwf, faultRecord_of_run ?_ ?_ ?_, nofun⟩ <;>
      rw [hframe] <;> assumption

/-- At reset both timers are zero, so the first ticks leave the boot record true. -/
theorem timerTick_inv (hinv : s.Inv) : s.timerTick.Inv := by
  obtain ⟨hwf, hrec, hboot⟩ := hinv
  refine ⟨hwf, hrec, fun hopen => ?_⟩
  rw [hboot hopen]
  rfl

theorem setKey_inv (k : Fin 16) (d : Bool) (hinv : s.Inv) : (s.setKey k d).Inv := by
  obtain ⟨hwf, hrec, hboot⟩ := hinv
  refine ⟨hwf, hrec, fun hopen => ?_⟩
  rw [hboot hopen]
  rfl

theorem clearDirty_inv (hinv : s.Inv) : s.clearDirty.Inv := by
  obtain ⟨hwf, hrec, hboot⟩ := hinv
  refine ⟨hwf, hrec, fun hopen => ?_⟩
  rw [hboot hopen]
  rfl

end

/-- All a `load_program` with a move can have done (R204). -/
theorem loadEvent_next {bytes : List Byte} {s t : State} {r : Reply}
    (h : loadEvent bytes s = .next (t, r)) :
    s.bootOpen = true ∧ s.status = .run ∧ s.loadProgram bytes = (t, r) := by
  unfold loadEvent at h
  split at h
  · rename_i hopen
    exact ⟨hopen.1, hopen.2, Host.Outcome.next.inj h⟩
  · cases h

/-- All a key event with a move can have done (R205). -/
theorem keyEvent_next {code : Nat} {d : Bool} {s t : State} {r : Reply}
    (h : keyEvent code d s = .next (t, r)) : ∃ k : Fin 16, t = s.setKey k d ∧ r = .none := by
  unfold keyEvent at h
  split at h
  · cases h; exact ⟨_, rfl, rfl⟩
  · cases h

/-- All a `cpu_tick` with a move can have done (R203). -/
theorem tickEvent_next {s t : State} {r : Reply} (h : tickEvent s = .next (t, r)) :
    step s = .next t ∧ r = tickReply s := by
  unfold tickEvent at h
  split at h
  · rename_i hs; cases h; exact ⟨hs, rfl⟩
  · cases h
  · cases h

theorem deliver_inv {e : Event} {s t : State} {r : Reply} (hinv : s.Inv)
    (h : deliver e s = .next (t, r)) : t.Inv := by
  cases e with
  | reset => cases h; exact hostReset_inv
  | loadProgram bytes =>
    obtain ⟨-, hrun, hload⟩ := loadEvent_next h
    have := loadProgram_inv bytes hrun hinv
    rwa [hload] at this
  | cpuTick => exact stepKeepsTheInvariant s t hinv (tickEvent_next h).1
  | timerTick => cases h; exact timerTick_inv hinv
  | keyDown code => obtain ⟨k, rfl, -⟩ := keyEvent_next h; exact setKey_inv k true hinv
  | keyUp code => obtain ⟨k, rfl, -⟩ := keyEvent_next h; exact setKey_inv k false hinv
  | fbRead => cases h; exact hinv
  | consumeDirty => cases h; exact clearDirty_inv hinv
  | statusRead => cases h; exact hinv

/-- Settles O20, by induction on the sequence of events. -/
theorem eventsKeepTheInvariant : Obligations.EventsKeepTheInvariant := by
  intro es
  induction es with
  | nil => intro s t hinv h; cases h; exact hinv
  | cons e rest ih =>
    intro s t hinv h
    rw [deliverAll] at h
    split at h
    · rename_i u r hu
      exact ih u t (deliver_inv hinv hu) h
    · cases h
    · cases h

end Sys2Proof.Machine
end

section
/-!
PROOFS. The host interface (60_exceptions.md R190 to R207, R213; 70_reset_and_hazards.md R220 to
R226) and the tick on an unmatched word (45_noop.md R180, R181). What an event can do is said once,
by the inversion lemmas of the events and by `deliver_cause`.
-/

namespace Sys2Proof.Machine

/-! ## Ticks (R181, R195) -/

theorem step_of_halted {s : State} (h : s.faulted) : step s = .next s := if_neg h

/-- A tick logs nothing but an unmatched word it executes. -/
theorem tickReply_eq_none {s : State}
    (h : ¬ (s.status = .run ∧ s.canFetch = true ∧ (decode s.fetchWord).kind = .nop)) :
    tickReply s = .none := by rw [tickReply, tickLog, if_neg h]

theorem tickReply_of_nop {s : State} (hrun : s.status = .run) (hfetch : s.canFetch = true)
    (hk : (decode s.fetchWord).kind = .nop) : tickReply s = .unrecognized s.pc s.fetchWord := by
  rw [tickReply, tickLog, if_pos ⟨hrun, hfetch, hk⟩]

/-- Settles O48: an unmatched word decodes to the NOP that carries it, which does nothing. -/
theorem nopAdvancesAndIsLogged : Obligations.NopAdvancesAndIsLogged := by
  refine ⟨fun _ s => ⟨s, rfl, rfl⟩, fun s hrun hrange => ⟨fun hk => ?nop, fun hk t r h => ?matched⟩⟩
  case nop =>
    have hfetch := s.canFetch_iff.2 hrange
    have tick : step s = .next s.afterFetch := by
      rw [step_of_run hrun hfetch, (decode_eq_nop_iff s.fetchWord).2 hk]; rfl
    rw [deliver_cpuTick_of_step tick, tickReply_of_nop hrun hfetch hk]
    rfl
  case matched =>
    rw [(tickEvent_next h).2]
    exact tickReply_eq_none fun h => hk h.2.2

/-- Settles O52: the jump takes PC back to its own address. -/
theorem normalEndIsStable : Obligations.NormalEndIsStable := by
  intro n s hend hboot
  refine ⟨?stable, hend⟩
  obtain ⟨hrun, hfetch, hi, hpc⟩ := hend
  have target : zextAddr (nnnOf s.pc) = s.pc := by
    apply BitVec.eq_of_toNat_eq
    rw [zextAddr_toNat, nnnOf_toNat]
    exact Nat.mod_eq_of_lt hpc
  have tick : step s = .next s := by
    rw [step_of_run hrun hfetch, hi]
    exact congrArg Host.Outcome.next (by rw [target, State.setPc_afterFetch hboot])
  exact deliverAll_replicate_fixed (deliver_cpuTick_of_step tick) n

/-! ## Timers (R200) -/

theorem countDown_toNat (b : Byte) : (countDown b).toNat = b.toNat - 1 := by
  unfold countDown
  split
  · rename_i h; subst h; rfl
  · bv_omega

/-- Settles O54, by induction on the number of ticks. -/
theorem timersCountDownToZero : Obligations.TimersCountDownToZero := by
  intro n
  induction n with
  | zero => exact fun s => ⟨s, rfl, rfl, rfl, rfl⟩
  | succ n ih =>
    intro s
    obtain ⟨t, ht, hdt, hst, hframe⟩ := ih s.timerTick
    refine ⟨t, ht, ?_, ?_, hframe⟩
    · rw [hdt, State.timerTick_dt, countDown_toNat]; omega
    · rw [hst, State.timerTick_st, countDown_toNat]; omega

/-! ## Keys (R205) -/

theorem deliver_keyDown {code : Nat} (h : code < 16) (s : State) :
    deliver (.keyDown code) s = .next (s.setKey ⟨code, h⟩ true, .none) := dif_pos h
theorem deliver_keyUp {code : Nat} (h : code < 16) (s : State) :
    deliver (.keyUp code) s = .next (s.setKey ⟨code, h⟩ false, .none) := dif_pos h

theorem State.setKey_same (s : State) (k : Fin 16) (d : Bool) : (s.setKey k d).keys[k.val] = d :=
  Vector.getElem_set_self _
theorem State.setKey_other (s : State) {k j : Fin 16} (d : Bool) (h : j.val ≠ k.val) :
    (s.setKey k d).keys[j.val] = s.keys[j.val] := Vector.getElem_set_ne k.isLt _ (Ne.symm h)

/-- Settles O57: a code below 16 writes its slot, and any other code has no move. -/
theorem keyEventsSetOneSlot : Obligations.KeyEventsSetOneSlot := fun code s =>
  ⟨fun h => ⟨_, _, deliver_keyDown h s, deliver_keyUp h s, s.setKey_same ⟨code, h⟩ true,
      s.setKey_same ⟨code, h⟩ false, fun _ hk => ⟨s.setKey_other true hk, s.setKey_other false hk⟩,
      rfl, rfl⟩,
    fun h => ⟨dif_neg (not_lt.2 h), dif_neg (not_lt.2 h)⟩⟩

/-! ## Reads (R206, R207, R213) -/

/-- Settles O58: each reply is the field it names; STATUS shows its number. -/
theorem hostReadsReturnTheState : Obligations.HostReadsReturnTheState := by
  refine fun s => ⟨rfl, ⟨_, rfl, rfl⟩, s.status.code, rfl, ?_⟩
  cases s.status <;> decide

/-! ## `load_program` (R193, R204, R222) -/

theorem deliver_load_refused {s : State} (h : ¬ (s.bootOpen = true ∧ s.status = .run))
    (bytes : List Byte) : deliver (.loadProgram bytes) s = .refused .loadOutsideBoot := if_neg h

theorem deliver_load_accepted {s : State} (hboot : s.bootOpen = true) (hrun : s.status = .run)
    (bytes : List Byte) : deliver (.loadProgram bytes) s = .next (s.loadProgram bytes) :=
  if_pos ⟨hboot, hrun⟩

theorem State.loadProgram_of_fits (s : State) {bytes : List Byte} (h : bytes.length ≤ 3584) :
    s.loadProgram bytes = ({ s.writeBytes progBase bytes with bootOpen := false }, .loadOk) :=
  if_neg (not_lt.2 h)

theorem State.loadProgram_of_tooLong (s : State) {bytes : List Byte} (h : 3584 < bytes.length) :
    s.loadProgram bytes =
      ({ s with status := .programTooLarge, faultPc := 0, faultOp := 0, bootOpen := false },
        .loadError) := if_pos h

/-- Settles O55: a program that fits ends at or below 4096, so no byte of it wraps. -/
theorem loadProgramCopiesOrRejects : Obligations.LoadProgramCopiesOrRejects := by
  intro bytes s hboot hrun
  refine ⟨fun hfits => ?copied, fun hlong => ⟨_, ?rejected, rfl⟩⟩
  case rejected => rw [deliver_load_accepted hboot hrun, s.loadProgram_of_tooLong hlong]
  case copied =>
    obtain ⟨stored, kept⟩ := State.writeBytes_read bytes s progBase (hfits.trans (by decide))
    refine ⟨{ s.writeBytes progBase bytes with bootOpen := false }, ?_, stored, ?_, ?_⟩
    · rw [deliver_load_accepted hboot hrun, s.loadProgram_of_fits hfits]
    · intro a ha hout
      refine kept a fun k hk => ?_
      simp only [memSize, progBase] at *
      omega
    · rw [s.writeBytes_frame bytes progBase]

theorem loadProgram_bootOpen (bytes : List Byte) (s : State) :
    (s.loadProgram bytes).1.bootOpen = false := by
  unfold State.loadProgram; split <;> rfl

/-- Settles O56: a load and a tick in RUN close the boot bit, and in the halted state no load is
accepted at all. -/
theorem loadIsAcceptedOnlyOnceAndBeforeTicks :
    Obligations.LoadIsAcceptedOnlyOnceAndBeforeTicks := by
  rintro s t r first (h | h) bytes <;> refine deliver_load_refused ?_ bytes <;> rintro ⟨hopen, hrun⟩
  · have hstep := (tickEvent_next h).1
    obtain ⟨halted, rfl⟩ | ⟨hrun, -⟩ := step_next hstep
    · exact halted hrun
    · cases (step_bootOpen hstep hrun).symm.trans hopen
  · obtain ⟨-, -, hload⟩ := loadEvent_next h
    have closed := loadProgram_bootOpen first s
    rw [hload] at closed
    cases closed.symm.trans hopen

/-! ## Fatal conditions (R190, R196, R198) -/

/-- Settles O49: a tick and a load ask for RUN, every other event does not. -/
theorem haltedStateIsInert : Obligations.HaltedStateIsInert := by
  intro s halted
  have quiet : tickReply s = .none := tickReply_eq_none fun h => halted h.1
  refine ⟨step_of_halted halted, ?tick, ⟨_, rfl, countDown_toNat s.dt, countDown_toNat s.st⟩,
    fun k => ⟨_, _, deliver_keyDown k.isLt s, s.setKey_same k true, deliver_keyUp k.isLt s,
      s.setKey_same k false⟩, rfl, ⟨_, rfl, rfl⟩,
    fun bytes => deliver_load_refused (fun h => halted h.2) bytes, _, rfl, rfl, rfl, rfl⟩
  case tick => rw [deliver_cpuTick_of_step (step_of_halted halted), quiet]

/-- Settles O50: a tick changes nothing, a load has no move, the other events write elsewhere. -/
theorem fatalStatusStaysUntilReset : Obligations.FatalStatusStaysUntilReset := by
  intro e s t r halted notReset h
  cases e with
  | reset => exact absurd rfl notReset
  | loadProgram bytes => exact absurd (loadEvent_next h).2.1 halted
  | cpuTick =>
    cases (step_of_halted halted).symm.trans (tickEvent_next h).1
    exact ⟨rfl, rfl, rfl, rfl⟩
  | keyDown code => obtain ⟨k, rfl, -⟩ := keyEvent_next h; exact ⟨rfl, rfl, rfl, rfl⟩
  | keyUp code => obtain ⟨k, rfl, -⟩ := keyEvent_next h; exact ⟨rfl, rfl, rfl, rfl⟩
  | _ => cases h; exact ⟨rfl, rfl, rfl, rfl⟩

/-- The causes of R190: what `e` was when it is delivered in `s` and ends with `c`. -/
def CauseOf (c : Status) (e : Event) (s : State) : Prop :=
  match c with
  | .run => True
  | .stackOverflow => e = .cpuTick ∧ (decode s.fetchWord).kind = .call ∧ s.sp = 16
  | .stackUnderflow => e = .cpuTick ∧ (decode s.fetchWord).kind = .ret ∧ s.sp = 0
  | .programTooLarge => ∃ bytes, e = .loadProgram bytes ∧ 3584 < bytes.length

theorem causeOf_of_run {c : Status} {e : Event} {s : State} (h : c = .run) : CauseOf c e s := by
  subst h; trivial

theorem cpuTick_cause {s t : State} (hrun : s.status = .run) (h : step s = .next t) :
    CauseOf t.status .cpuTick s := by
  obtain ⟨halted, -⟩ | ⟨-, -, hexec⟩ := step_next h
  · exact absurd hrun halted
  · cases exec_effect hexec with
    | overflow nnn hi full => exact ⟨rfl, congrArg Instr.kind hi, full⟩
    | underflow mid hi empty => exact ⟨rfl, congrArg Instr.kind hi, empty⟩
    | _ => exact causeOf_of_run hrun

theorem loadProgram_cause (bytes : List Byte) {s : State} (hrun : s.status = .run) :
    CauseOf (s.loadProgram bytes).1.status (.loadProgram bytes) s := by
  rcases le_or_gt bytes.length 3584 with fits | long
  · rw [s.loadProgram_of_fits fits]
    refine causeOf_of_run ?_
    rw [s.writeBytes_frame bytes progBase]
    exact hrun
  · rw [s.loadProgram_of_tooLong long]
    exact ⟨bytes, rfl, long⟩

theorem deliver_cause {e : Event} {s t : State} {r : Reply} (hrun : s.status = .run)
    (h : deliver e s = .next (t, r)) : CauseOf t.status e s := by
  cases e with
  | loadProgram bytes =>
    have cause := loadProgram_cause bytes hrun
    rwa [(loadEvent_next h).2.2] at cause
  | cpuTick => exact cpuTick_cause hrun (tickEvent_next h).1
  | keyDown code => obtain ⟨k, rfl, -⟩ := keyEvent_next h; exact causeOf_of_run hrun
  | keyUp code => obtain ⟨k, rfl, -⟩ := keyEvent_next h; exact causeOf_of_run hrun
  | reset => cases h; exact causeOf_of_run rfl
  | _ => cases h; exact causeOf_of_run hrun

/-- Settles O51, each status by its cause. -/
theorem fatalConditionsHaveOneCauseEach : Obligations.FatalConditionsHaveOneCauseEach := by
  intro e s t r hrun h
  have cause := deliver_cause hrun h
  exact ⟨fun hs => by rwa [hs] at cause, fun hs => by rwa [hs] at cause,
    fun hs => by rwa [hs] at cause⟩

/-! ## What the host cannot touch (R203) -/

/-- Settles O53, event by event. -/
theorem hostEventsTouchOnlyTheirOwnState : Obligations.HostEventsTouchOnlyTheirOwnState := by
  intro e s t r notReset notTick h
  cases e with
  | reset => exact absurd rfl notReset
  | cpuTick => exact absurd rfl notTick
  | loadProgram bytes =>
    obtain ⟨-, -, hload⟩ := loadEvent_next h
    rcases le_or_gt bytes.length 3584 with fits | long
    · cases (s.loadProgram_of_fits fits).symm.trans hload
      rw [s.writeBytes_frame bytes progBase]
      simp
    · cases (s.loadProgram_of_tooLong long).symm.trans hload
      simp
  | keyDown code => obtain ⟨k, rfl, -⟩ := keyEvent_next h; simp
  | keyUp code => obtain ⟨k, rfl, -⟩ := keyEvent_next h; simp
  | _ => cases h; simp

/-! ## `reset` (R220) -/

theorem resetByte_font (c : Config) (i : Fin 80) :
    c.resetByte (c.fontBase.val + i.val) = c.fontTable[i.val] := by
  have h : c.fontBase.val ≤ c.fontBase.val + i.val ∧
      c.fontBase.val + i.val < c.fontBase.val + 80 := by omega
  rw [Config.resetByte, dif_pos h]
  simp only [Nat.add_sub_cancel_left]

theorem resetByte_outside (c : Config) {a : Nat}
    (h : a < c.fontBase.val ∨ c.fontBase.val + 80 ≤ a) : c.resetByte a = 0 :=
  dif_neg (by omega)

theorem State.readByte_hostReset (s : State) {a : Nat} (ha : a < 4096) :
    s.hostReset.readByte a = s.cfg.resetByte a := by
  change s.cfg.resetByte (a % 4096) = _
  rw [Nat.mod_eq_of_lt ha]

/-- Settles O59: memory lists nothing after `reset`, so a byte is the reset byte of its address. -/
theorem resetGivesTheResetState : Obligations.ResetGivesTheResetState := by
  refine fun s => ⟨fun hdefault => ?default, s.hostReset, rfl, fun r => Vector.getElem_replicate _,
    rfl, rfl, fun k => Vector.getElem_replicate _, rfl, rfl, rfl, rfl, rfl, rfl, fun i => ?font,
    fun a ha hout => ?zero, pixelAt_blankScreen, rfl, fun k => Vector.getElem_replicate _, rfl⟩
  case default =>
    change Host.Outcome.next (s.hostReset, Reply.none) = _
    rw [State.hostReset, hdefault]
    rfl
  case font =>
    rw [s.readByte_hostReset (by omega), resetByte_font]
  case zero => rw [s.readByte_hostReset ha, resetByte_outside _ hout]

end Sys2Proof.Machine
end
